-- ==== Sys2Proof/Word.lean ====
section
/-! DEFINITION. The fixed widths of the engine (spec rule R5) and the two directions of a block operation. -/

namespace Sys2Proof

/-- A byte of the host adapter's files (R166).  The engine itself has no bytes (R54). -/
abbrev Byte := BitVec 8

/-- `BV 64`: a block, a master key, or the `data` field of a command or response (R5, R56). -/
abbrev Block := BitVec 64

/-- `BV 32`: one half of a block during the rounds, `L` or `R` (R26). -/
abbrev HalfBlock := BitVec 32

/-- `BV 48`: one round key (R21). -/
abbrev RoundKey := BitVec 48

/-- `BV 28`: one half of the key-schedule rotation state, `C` or `D` (R27). -/
abbrev KeyHalf := BitVec 28

/-- The command word of the `cmd` port: `cmd[65:64]` is `op`, `cmd[63:0]` is `data` (R70). -/
abbrev CommandWord := BitVec 66

/-- The response word of the `rsp` port: `rsp[64]` is `err`, `rsp[63:0]` is `data` (R73). -/
abbrev ResponseWord := BitVec 65

/-- A round index 0..15, the value of `RND` (R24).  Four bits wide, so that it can hold no other value. -/
abbrev RoundIndex := BitVec 4

/-- The direction of a block operation: `ENC` or `DEC` (R25, R142). -/
inductive Dir where
  | enc
  | dec
  deriving DecidableEq, Repr, Inhabited

/-- The one bit that `DIR` records: 0 for ENCRYPT, 1 for DECRYPT (R25). -/
def Dir.bit : Dir → Bool
  | .enc => false
  | .dec => true

end Sys2Proof
end

