-- ==== Sys2Proof/Config.lean ====
section
/-! DEFINITION. What one engine fixes: the type of its constant tables (R101), and the free values, which
nothing in the model constrains (R14, R200, R212).  The entries of the tables stand in Machine/Tables.lean. -/

namespace Sys2Proof

/-- The eight constant stores, and no ninth (R50, R101).  An index table lists, by 0-based output index, 1-based
input positions (R51); the S-box matrix is addressed `[g][row][col]` (R52).  Raw data: whether a set of tables is
legal is the integrity check of WellFormed.lean (R99). -/
structure Tables where
  ip    : List Nat
  fp    : List Nat
  e     : List Nat
  p     : List Nat
  pc1   : List Nat
  pc2   : List Nat
  sbox  : List (List (List Nat))
  shift : List Nat
  deriving DecidableEq, Repr

namespace Config

/-! The contents of the working and sequencing registers after a reset event are unspecified ("any value",
93_implementation_defined.md U3), and whether reset erases them is not promised (R201, R212).  So each is a free
value that may depend on which reset it is and on what the register held before.  Assumption log 4. -/

/-- `L` after a reset event (R200). -/
opaque leftAfterReset : Nat → HalfBlock → HalfBlock

/-- `R` after a reset event (R200). -/
opaque rightAfterReset : Nat → HalfBlock → HalfBlock

/-- `C` after a reset event (R200). -/
opaque cAfterReset : Nat → KeyHalf → KeyHalf

/-- `D` after a reset event (R200). -/
opaque dAfterReset : Nat → KeyHalf → KeyHalf

/-- `RND` after a reset event (R200). -/
opaque roundAfterReset : Nat → RoundIndex → RoundIndex

/-- `DIR` after a reset event (R200). -/
opaque dirAfterReset : Nat → Dir → Dir

end Config

end Sys2Proof
end

