-- ==== Sys2Proof/Machine/Bits.lean ====
section
/-! DEFINITION. Bit vectors in the spec's numbering: index 0 is the most-significant and first bit (R6 to R10).
Concatenation `a ‖ b` is Lean's `a ++ b` and `a xor b` is `a ^^^ b`. -/

namespace Sys2Proof.Machine

/-- `v.at(i)`: 0-based, most-significant first (R6).  False outside the vector; the rules never ask there. -/
def bitAt {n : Nat} (v : BitVec n) (i : Nat) : Bool := v.getMsbD i

/-- `v.pos(p) = v.at(p − 1)`: 1-based, the numbering the tables store (R6). -/
def bitPos {n : Nat} (v : BitVec n) (p : Nat) : Bool := bitAt v (p - 1)

/-- `Σ f(i) · 2^(n−1−i)` for `i = 0 .. n−1`: the integer whose bits are `f`, first bit most significant (R7). -/
def bitsToNat : (n : Nat) → (Nat → Bool) → Nat
  | 0, _ => 0
  | n + 1, f => 2 * bitsToNat n f + (f n).toNat

/-- The `BV n` with `at(i) = f(i)` (R7). -/
def ofBits (n : Nat) (f : Nat → Bool) : BitVec n := BitVec.ofNat n (bitsToNat n f)

/-- `first_k(v) = v.at(0 .. k−1)` (R9). -/
def firstBits (k : Nat) {n : Nat} (v : BitVec n) : BitVec k := ofBits k fun i => bitAt v i

/-- `last_k(v) = v.at(n−k .. n−1)` (R9). -/
def lastBits (k : Nat) {n : Nat} (v : BitVec n) : BitVec k := ofBits k fun i => bitAt v (n - k + i)

/-- `group_6(v, g) = v.at(6g .. 6g+5)` for `v : BV 48` (R9, R128). -/
def group6 (v : BitVec 48) (g : Nat) : BitVec 6 := ofBits 6 fun k => bitAt v (6 * g + k)

/-- `Permute(T, v).at(j) = v.pos(T[j])`: entry `j` says which input position output index `j` copies (R90). -/
def permute {m : Nat} (n : Nat) (t : List Nat) (v : BitVec m) : BitVec n :=
  ofBits n fun j => bitPos v (t.getD j 0)

/-- `rotl_28(v, s).at(j) = v.at((j + s) mod 28)`: toward index 0 (R112). -/
def rotl28 (v : KeyHalf) (s : Nat) : KeyHalf := ofBits 28 fun j => bitAt v ((j + s) % 28)

end Sys2Proof.Machine
end

