-- ==== Sys2Proof/Machine/KeySchedule.lean ====
section
/-! DEFINITION. The key schedule unit (R110 to R115): pure functions from a master key to sixteen round keys. -/

namespace Sys2Proof.Machine

/-- The rotation state `(C, D)` (R27). -/
structure KeyHalves where
  c : KeyHalf
  d : KeyHalf
  deriving DecidableEq, Repr

/-- A whole round-key schedule: exactly 16 round keys, index i for round i+1 (R21, R53). -/
abbrev Schedule := Vector RoundKey 16

/-- `RK[i]` of a schedule. -/
def scheduleKey (ks : Schedule) (i : RoundIndex) : RoundKey := ks[i.toNat]'i.isLt

/-- Stage 1: `PC1`, then the first and the last 28 bits, `C[0]` and `D[0]` (R110). -/
def initialKeyHalves (key : Block) : KeyHalves :=
  let cd0 : BitVec 56 := permute 56 engineTables.pc1 key
  { c := firstBits 28 cd0, d := lastBits 28 cd0 }

/-- One rotation, `C` and `D` independently by `SHIFT[i]` (R112, R113). -/
def rotateHalves (h : KeyHalves) (i : RoundIndex) : KeyHalves :=
  { c := rotl28 h.c (shiftAmount i), d := rotl28 h.d (shiftAmount i) }

/-- `C[n]` and `D[n]`: the halves before round n, carried from round to round (R113, R114). -/
def keyHalvesAfter (key : Block) : Nat → KeyHalves
  | 0 => initialKeyHalves key
  | n + 1 => rotateHalves (keyHalvesAfter key n) (BitVec.ofNat 4 n)

/-- `Permute(PC2, C ‖ D)` (R113). -/
def selectRoundKey (h : KeyHalves) : RoundKey := permute 48 engineTables.pc2 (h.c ++ h.d)

/-- `K[i]`, from the halves AFTER round i's rotation (R113). -/
def roundKeyOf (key : Block) (i : Nat) : RoundKey := selectRoundKey (keyHalvesAfter key (i + 1))

/-- `KeySchedule(key)` (R115). -/
def keySchedule (key : Block) : Schedule := Vector.ofFn fun i => roundKeyOf key i.val

/-- `CUM[i]`, the sum of `SHIFT[0..i]` (R98). -/
def cumulativeShift : Nat → Nat
  | 0 => shiftAmount 0#4
  | n + 1 => cumulativeShift n + shiftAmount (BitVec.ofNat 4 (n + 1))

end Sys2Proof.Machine
end

