-- ==== Sys2Proof/Machine/RoundFunction.lean ====
section
/-! DEFINITION. The round function unit `F` (R125 to R132): pure, the same in both directions. -/

namespace Sys2Proof.Machine

/-- Step 1: `Permute(E, S)` (R126). -/
def expand (s : HalfBlock) : BitVec 48 := permute 48 engineTables.e s

/-- `row = 2·B.at(0) + B.at(5)` (R129). -/
def sboxRow (b : BitVec 6) : Nat := 2 * (bitAt b 0).toNat + (bitAt b 5).toNat

/-- `col = 8·B.at(1) + 4·B.at(2) + 2·B.at(3) + B.at(4)` (R129). -/
def sboxColumn (b : BitVec 6) : Nat :=
  8 * (bitAt b 1).toNat + 4 * (bitAt b 2).toNat + 2 * (bitAt b 3).toNat + (bitAt b 4).toNat

/-- `bv_4(SBOX[g][row][col])` for group `g` of the mixed value: the entry most-significant bit first, with no further
reversal (R128, R130; 90_conflicts.md C1). -/
def sboxNibble (x : BitVec 48) (g : Nat) : BitVec 4 :=
  let b := group6 x g
  BitVec.ofNat 4 (sboxEntry g (sboxRow b) (sboxColumn b))

/-- Step 3: `Y.at(4g .. 4g+3) = bv_4(y_g)`, the eight nibbles in group order (R130, R131). -/
def substitute (x : BitVec 48) : HalfBlock := ofBits 32 fun i => bitAt (sboxNibble x (i / 4)) (i % 4)

/-- `F(S, K) = Permute(P, Y)` with `Y` the substitution of `Permute(E, S) xor K` (R127, R131, R132). -/
def roundFunction (s : HalfBlock) (k : RoundKey) : HalfBlock :=
  permute 32 engineTables.p (substitute (expand s ^^^ k))

end Sys2Proof.Machine
end

