-- ==== Sys2Proof/Machine/BlockCipher.lean ====
section
/-! DEFINITION. The orchestrator (R140 to R144): pure functions from a block and a schedule to a block. -/

namespace Sys2Proof.Machine

/-- The two halves of the block during the rounds, `(L, R)` (R26). -/
structure BlockHalves where
  l : HalfBlock
  r : HalfBlock
  deriving DecidableEq, Repr

/-- Stage 1: `IP`, then the first and the last 32 bits (R140). -/
def initialBlockHalves (x : Block) : BlockHalves :=
  let t : BitVec 64 := permute 64 engineTables.ip x
  { l := firstBits 32 t, r := lastBits 32 t }

/-- Stage 2, one round: the new `L` is the old `R`, the new `R` is `L xor F(R, k)`, both from the old values (R141). -/
def feistelRound (h : BlockHalves) (k : RoundKey) : BlockHalves :=
  { l := h.r, r := h.l ^^^ roundFunction h.r k }

/-- `kidx(dir, i)`: `i` for encryption, `15 − i` for decryption (R142). -/
def keyIndex : Dir → RoundIndex → RoundIndex
  | .enc, i => i
  | .dec, i => 15#4 - i

/-- `L[n]` and `R[n]`, after n rounds (R141, R142). -/
def blockHalvesAfter (dir : Dir) (x : Block) (ks : Schedule) : Nat → BlockHalves
  | 0 => initialBlockHalves x
  | n + 1 => feistelRound (blockHalvesAfter dir x ks n) (scheduleKey ks (keyIndex dir (BitVec.ofNat 4 n)))

/-- Stage 3: `Permute(FP, R ‖ L)`, the right half first (R143). -/
def finalBlock (h : BlockHalves) : Block := permute 64 engineTables.fp (h.r ++ h.l)

/-- `Crypt(dir, X, RK)`: exactly sixteen rounds (R144). -/
def crypt (dir : Dir) (x : Block) (ks : Schedule) : Block := finalBlock (blockHalvesAfter dir x ks 16)

end Sys2Proof.Machine
end

