-- ==== Sys2Proof/Machine/State.lean ====
section
/-! DEFINITION. The state of the engine and of its ports (10_state.md), as plain data, and the reasons a step can
stop.  Every field is listed in INVENTORY.md under State. -/

namespace Sys2Proof.Machine

/-- `PHASE` (R23). -/
inductive Phase where
  /-- No command in progress: a command can be accepted. -/
  | idle
  /-- A LOADKEY is in progress. -/
  | keygen
  /-- An ENCRYPT or DECRYPT is in progress. -/
  | rounds
  deriving DecidableEq, Repr

/-- One response (R73).  The `data` field of an error response has no value (R186), so the constructor has none. -/
inductive Response where
  /-- `err = 0`: the command completed, with this `data`. -/
  | ok (data : Block)
  /-- `err = 1`: the command raised `KeyNotLoaded`. -/
  | keyNotLoaded
  deriving DecidableEq, Repr

/-- What the host drives on the engine's input ports at one point (R31): `rst`, `cmd_valid`, `cmd`. -/
structure PortInput where
  rst      : Bool
  cmdValid : Bool
  cmd      : CommandWord
  deriving DecidableEq, Repr

/-- Why a step stops with a fault.  No state a run can reach raises either: assumption log 3. -/
inductive Fault where
  /-- A round key was read that no LOADKEY has written since reset: "a read would fault" (R200), "`fault` on read" (U2),
  "an unwritten register must fault, never read as zero" (D6); R36.
  Raised by ENCRYPT, DECRYPT and a ROUNDS micro-step in a state with `KEY_VALID = 1` and that `RK[i]` unwritten, which
  the invariant of Safety.lean rules out.  Safe: the machine stops where the spec gives no value. -/
  | unwrittenRoundKey (i : RoundIndex)
  /-- The host read the `data` of an error response, which has no value (R186, U1).  Raised by the host's read
  `Response.readData` only, never by a step.  Safe. -/
  | errorResponseDataRead
  deriving DecidableEq, Repr

/-- Why a step refuses an instruction. -/
inductive Refusal where
  /-- The instruction has no meaning in the model yet.  Raised by no arm: all four commands are modelled.  Safe. -/
  | notModelled (mnemonic : String)
  deriving DecidableEq, Repr

/-- All the state the spec gives the machine (10_state.md section 1, R31, R73), and one counter of the model's own. -/
@[ext]
structure State where
  /-- `RK[0..15]`; `none` is the spec's own "no value (unwritten)" (R21, R36, R200). -/
  rk : Vector (Option RoundKey) 16
  /-- `KEY_VALID`, and the status output `key_valid` (R22, R31). -/
  keyValid : Bool
  /-- `PHASE` (R23); the status output `cmd_ready` is 1 exactly when it is `idle` (R31). -/
  phase : Phase
  /-- `RND` (R24). -/
  rnd : RoundIndex
  /-- `DIR` (R25). -/
  dir : Dir
  /-- `L` (R26). -/
  l : HalfBlock
  /-- `R` (R26). -/
  r : HalfBlock
  /-- `C` (R27). -/
  c : KeyHalf
  /-- `D` (R27). -/
  d : KeyHalf
  /-- The ports `rsp_valid` and `rsp`: the response presented at this point, if any (R31, R79). -/
  rsp : Option Response
  /-- The response stream, in order: every response the engine has presented (R80, R211). -/
  responses : List Response
  /-- What the host drives on `rst`, `cmd_valid` and `cmd` at this point and the points after it; past the end of the
  list all three are 0 (R31, R79, R211). -/
  inputs : List PortInput
  /-- The MODEL's own: how many reset events there have been, the argument of the free values (assumption log 4). -/
  resetCount : Nat
  deriving DecidableEq, Repr

/-- The machine right after reset (R200).  `RK` holds "no value", as R200 and R36 state it.  `RND`, `DIR`, `L`, `R`, `C`, `D` are unspecified by the spec.
DESIGN CHOICE: zero (and `enc`, whose bit is 0); assumption log 2. -/
def State.reset : State where
  rk := Vector.replicate 16 none
  keyValid := false
  phase := .idle
  rnd := 0#4
  dir := .enc
  l := 0#32
  r := 0#32
  c := 0#28
  d := 0#28
  rsp := none
  responses := []
  inputs := []
  resetCount := 0

end Sys2Proof.Machine
end

