-- ==== Sys2Proof/Machine/Ops.lean ====
section
/-! DEFINITION. The named operations on the state: reading and writing registers, responding, raising the one
error, and the reset event.  Every meaning is written over these. -/

namespace Sys2Proof.Machine

/-- The three outcomes of a step, at this machine's types. -/
abbrev StepResult := Host.Outcome State Fault Refusal

/-- `RK[i]`, or no value (R21, R36). -/
def State.rkAt (s : State) (i : RoundIndex) : Option RoundKey := s.rk[i.toNat]'i.isLt

/-- `RK[i] <- v`: all 48 bits of one round key (R57). -/
def State.writeRoundKey (s : State) (i : RoundIndex) (v : RoundKey) : State :=
  { s with rk := s.rk.set i.toNat (some v) i.isLt }

/-- `RK[i] <- K[i]` for all sixteen i at once (R57, R116). -/
def State.writeSchedule (s : State) (ks : Schedule) : State := { s with rk := ks.map some }

/-- `KEY_VALID <- v` (R22). -/
def State.setKeyValid (s : State) (v : Bool) : State := { s with keyValid := v }

/-- `PHASE <- p` (R23). -/
def State.setPhase (s : State) (p : Phase) : State := { s with phase := p }

/-- `RND <- i` (R24). -/
def State.setRound (s : State) (i : RoundIndex) : State := { s with rnd := i }

/-- `DIR <- dir` (R25). -/
def State.setDir (s : State) (dir : Dir) : State := { s with dir := dir }

/-- `L <- h.l; R <- h.r` (R26). -/
def State.setBlockHalves (s : State) (h : BlockHalves) : State := { s with l := h.l, r := h.r }

/-- The pair `(L, R)` (R26). -/
def State.blockHalves (s : State) : BlockHalves := { l := s.l, r := s.r }

/-- `C <- h.c; D <- h.d` (R27). -/
def State.setKeyHalves (s : State) (h : KeyHalves) : State := { s with c := h.c, d := h.d }

/-- The pair `(C, D)` (R27). -/
def State.keyHalves (s : State) : KeyHalves := { c := s.c, d := s.d }

/-- `RK[i]`: a round key no LOADKEY has written since reset has no value, and reading it faults (R36, R200). -/
def State.readRoundKey (s : State) (i : RoundIndex) : Except Fault RoundKey :=
  match s.rkAt i with
  | some k => .ok k
  | none => .error (.unwrittenRoundKey i)

/-- The order in which a block operation reads the round keys (R53, R142). -/
def keyReadOrder (dir : Dir) : List RoundIndex := (List.range 16).map fun i => keyIndex dir (BitVec.ofNat 4 i)

/-- All sixteen round keys, read in the order of the direction; a fault names the first unwritten one (R53, R57). -/
def State.readSchedule (s : State) (dir : Dir) : Except Fault Schedule :=
  match (keyReadOrder dir).find? fun i => (s.rkAt i).isNone with
  | some i => .error (.unwrittenRoundKey i)
  | none => .ok (s.rk.map fun k => k.getD 0#48)

/-- `respond(err, data)`: the response is presented, once, and joins the response stream (R73, R79, R80). -/
def State.respond (s : State) (a : Response) : State :=
  { s with rsp := some a, responses := s.responses ++ [a] }

/-- `raise KeyNotLoaded`, completely: the error response, and no other change of state.  There is no handler, no saved
state, and so no return operation beside it (R182, R186, R187). -/
def raiseKeyNotLoaded (s : State) : State := s.respond .keyNotLoaded

/-- The reset event of the `rst` input (R200, R201): a command in progress is abandoned without a response, no response
is pending, and the round keys have no value.  The working and sequencing registers are free: assumption log 4. -/
def State.resetEvent (s : State) : State :=
  { s with
    rk := Vector.replicate 16 none
    keyValid := false
    phase := .idle
    rnd := Config.roundAfterReset s.resetCount s.rnd
    dir := Config.dirAfterReset s.resetCount s.dir
    l := Config.leftAfterReset s.resetCount s.l
    r := Config.rightAfterReset s.resetCount s.r
    c := Config.cAfterReset s.resetCount s.c
    d := Config.dAfterReset s.resetCount s.d
    rsp := none
    resetCount := s.resetCount + 1 }

end Sys2Proof.Machine
end

