-- ==== Sys2Proof/Machine/Flags.lean ====
section
/-! DEFINITION. The one flag, `KEY_VALID`: there are no condition codes and no command writes a flag as a side
effect (10_state.md section 3). -/

namespace Sys2Proof.Machine

/-- The test of `KEY_VALID` at the acceptance of a block command, before anything is computed: the only
state-dependent choice in the engine (R151, R182, R185). -/
def State.requireKey (s : State) (body : State → StepResult) : StepResult :=
  if s.keyValid then body s else .next (raiseKeyNotLoaded s)

/-- The completion of LOADKEY sets `KEY_VALID` (R22). -/
def State.markKeyLoaded (s : State) : State := s.setKeyValid true

end Sys2Proof.Machine
end

