-- ==== Sys2Proof/Syntax.lean ====
section
/-! DEFINITION. The four commands, which are the engine's whole instruction set (R71, R198). -/

namespace Sys2Proof

/-- One constructor per row of spec/opcode_table.json, each with the 64 bits of the `data` field (R70). -/
inductive Instr where
  /-- `op = 00`.  The data field is ignored (R75), and kept here so that no bit of a word is dropped. -/
  | nop (data : Block)
  /-- `op = 01`.  The operand is the master key (R116). -/
  | loadkey (data : Block)
  /-- `op = 10`.  The operand is the plaintext block (R145). -/
  | encrypt (data : Block)
  /-- `op = 11`.  The operand is the ciphertext block (R146). -/
  | decrypt (data : Block)
  deriving DecidableEq, Repr

/-- The block command of each direction (R71: `cmd[65]` = 1 and `cmd[64]` the direction). -/
def Instr.block : Dir → Block → Instr
  | .enc, x => .encrypt x
  | .dec, x => .decrypt x

end Sys2Proof
end

