-- ==== Sys2Proof/WellFormed.lean ====
section
/-! DEFINITION. Well-formedness.  Every command with every operand is legal (R74, R75), so the checks that can
refuse something are those of the constant tables (R99), made when the engine is built (R181). -/

namespace Sys2Proof

/-- R74, R75: no operand value of any command is illegal, and there is no other field to check. -/
def Instr.wellFormed : Instr → Bool
  | .nop _ => true
  | .loadkey _ => true
  | .encrypt _ => true
  | .decrypt _ => true

/-- `n` entries, each a position in `1..m` (R99). -/
def isIndexTable (n m : Nat) (t : List Nat) : Bool :=
  t.length == n && t.all fun p => decide (1 ≤ p) && decide (p ≤ m)

/-- `n` entries that are a permutation of `1..n` (R99). -/
def isPermutationTable (n : Nat) (t : List Nat) : Bool :=
  isIndexTable n n t && (List.range n).all fun k => t.contains (k + 1)

/-- `FP[IP[i] − 1] = i + 1` for all `i` in 0..63 (R92, R99). -/
def isInverseTable (ip fp : List Nat) : Bool :=
  (List.range 64).all fun i => fp.getD (ip.getD i 0 - 1) 0 == i + 1

/-- One S-box row: 16 entries, a permutation of 0..15 (R97, R99). -/
def isSboxRow (row : List Nat) : Bool :=
  row.length == 16 && (List.range 16).all fun k => row.contains k

/-- 8 boxes of 4 rows (R97, R99). -/
def isSboxMatrix (boxes : List (List (List Nat))) : Bool :=
  boxes.length == 8 && boxes.all fun box => box.length == 4 && box.all isSboxRow

/-- 16 entries, each 1 or 2 (R98, R99). -/
def isShiftTable (t : List Nat) : Bool :=
  t.length == 16 && t.all fun s => s == 1 || s == 2

/-- The whole integrity check: the constraints collected in R99. -/
def Tables.wellFormed (t : Tables) : Bool :=
  isPermutationTable 64 t.ip && isPermutationTable 64 t.fp && isInverseTable t.ip t.fp
    && isIndexTable 48 32 t.e && isPermutationTable 32 t.p
    && isIndexTable 56 64 t.pc1 && isIndexTable 48 56 t.pc2
    && isSboxMatrix t.sbox && isShiftTable t.shift

end Sys2Proof
end

