-- ==== Sys2Proof/Decode.lean ====
section
/-! DEFINITION. The command decoder and encoder (R70 to R76).  The decoder is total on command words (R74); the
only thing it can reject is a number that is no 66-bit word at all (R56). -/

namespace Sys2Proof

/-- The `op` field, `cmd[65:64]` (R70). -/
def opField (w : CommandWord) : BitVec 2 := w.extractLsb' 64 2

/-- The `data` field, `cmd[63:0]`, used whole and unmodified (R70, R72). -/
def dataField (w : CommandWord) : Block := w.extractLsb' 0 64

/-- R71: the four values of `op` select the four commands. -/
def decode (w : CommandWord) : Instr :=
  match opField w with
  | 0b00#2 => .nop (dataField w)
  | 0b01#2 => .loadkey (dataField w)
  | 0b10#2 => .encrypt (dataField w)
  | _      => .decrypt (dataField w)

/-- Why bits are rejected: they do not fit the one command format (R56, R70). -/
inductive DecodeReject where
  /-- A bit at number 66 or above is set: `cmd` has no such wire. -/
  | widerThanCommandPort
  deriving DecidableEq, Repr

/-- Decoding of any bits whatever, given as a number: total, rejecting by name (R56, R74). -/
def decodeBits (n : Nat) : Except DecodeReject Instr :=
  if n < 2 ^ 66 then .ok (decode (BitVec.ofNat 66 n)) else .error .widerThanCommandPort

/-- The `op` value of a command (R71). -/
def opcode : Instr → BitVec 2
  | .nop _     => 0b00#2
  | .loadkey _ => 0b01#2
  | .encrypt _ => 0b10#2
  | .decrypt _ => 0b11#2

/-- The 64 bits that stand in the `data` field of a command (R70). -/
def operand : Instr → Block
  | .nop d     => d
  | .loadkey d => d
  | .encrypt d => d
  | .decrypt d => d

/-- The command word of a command: `op` then `data` (R70). -/
def encode (i : Instr) : CommandWord := opcode i ++ operand i

/-- The mask of the opcode map, the same for all four rows (R71). -/
def opMask : CommandWord := 0x30000000000000000#66

/-- The match value of each row of the opcode map (R71). -/
def opMatch : Instr → CommandWord
  | .nop _     => 0x00000000000000000#66
  | .loadkey _ => 0x10000000000000000#66
  | .encrypt _ => 0x20000000000000000#66
  | .decrypt _ => 0x30000000000000000#66

/-- The instruction the decoder reads from the bits `w` of a row of `nbits` bits, the bits above `nbits` zero. -/
def decodeTableWord (nbits w : Nat) : Option Instr :=
  match decodeBits (w % 2 ^ nbits) with
  | .ok i => some i
  | .error _ => none

end Sys2Proof
end

