-- ==== Sys2Proof/Machine/Operands.lean ====
section
/-! DEFINITION. The one operand form and the response word (R70 to R73), and the status outputs (R31). -/

namespace Sys2Proof.Machine

/-- The operand of a command as a bit vector, `bv_64(data)`: the field whole, with `cmd[63]` as index 0.  Lean's bit
vectors keep the hardware numbering `v[k]`, so nothing is reordered (R8, R72). -/
def operandVector (data : Block) : Block := data

/-- The result as the `data` field of a response, `int(v)`: `rsp[63]` is index 0 of the result (R72). -/
def resultField (v : Block) : Block := v

/-- The `err` bit, `rsp[64]` (R73, R183). -/
def Response.err : Response → Bool
  | .ok _ => false
  | .keyNotLoaded => true

/-- Whether `w` is a word of this response on the `rsp` port: for an error response any word with `rsp[64] = 1` is one,
since its low 64 bits have no value (R73, R186). -/
def Response.isWord : Response → ResponseWord → Bool
  | .ok data, w => w == 0b0#1 ++ data
  | .keyNotLoaded, w => w.extractLsb' 64 1 == 0b1#1

/-- The host's read of the `data` field: of an error response it is the host's fault (R186, U1). -/
def Response.readData : Response → Except Fault Block
  | .ok data => .ok data
  | .keyNotLoaded => .error .errorResponseDataRead

/-- The status output `cmd_ready` (R31). -/
def State.cmdReady (s : State) : Bool := s.phase == .idle

/-- The status output `key_valid` (R31). -/
def State.keyValidOut (s : State) : Bool := s.keyValid

/-- The output `rsp_valid` (R31). -/
def State.rspValid (s : State) : Bool := s.rsp.isSome

end Sys2Proof.Machine
end

