-- ==== Sys2Proof/Machine/BlockCommands.lean ====
section
/-! DEFINITION. ENCRYPT and DECRYPT at the command level (R145, R146). -/

namespace Sys2Proof.Machine

/-- A block operation, in one atomic step: with no key loaded `KeyNotLoaded`, else the response `Crypt(dir, X, RK)`.
`L`, `R`, `RND` and `DIR` end as the sixteen rounds leave them (R24, R25, R26, R150); `RK` and `KEY_VALID` stay. -/
def blockOperation (dir : Dir) (data : Block) (s : State) : StepResult :=
  s.requireKey fun s =>
    match s.readSchedule dir with
    | .error f => .fault f
    | .ok ks =>
      let x := operandVector data
      .next ((((s.setBlockHalves (blockHalvesAfter dir x ks 16)).setRound 15#4).setDir dir).respond
        (.ok (resultField (crypt dir x ks))))

/-- ENCRYPT (R145). -/
def execEncrypt (data : Block) (s : State) : StepResult := blockOperation .enc data s

/-- DECRYPT: the same datapath with the round keys in reverse order (R35, R146). -/
def execDecrypt (data : Block) (s : State) : StepResult := blockOperation .dec data s

end Sys2Proof.Machine
end

