-- ==== Sys2Proof/Machine/IdleCommands.lean ====
section
/-! DEFINITION. NOP (R147). -/

namespace Sys2Proof.Machine

/-- NOP: no state is read or written and no response is produced, whatever the `data` field (R75, R147). -/
def execNop (_data : Block) (s : State) : StepResult := .next s

end Sys2Proof.Machine
end

