-- ==== Sys2Proof/Machine/KeyCommands.lean ====
section
/-! DEFINITION. LOADKEY at the command level (R116). -/

namespace Sys2Proof.Machine

/-- LOADKEY: all sixteen round keys and `KEY_VALID` are written and the response carries zero, in one atomic step (R57,
R116).  `C`, `D` and `RND` end as the sixteen rounds leave them (R24, R27, R117). -/
def execLoadkey (data : Block) (s : State) : StepResult :=
  let key := operandVector data
  .next ((((((s.writeSchedule (keySchedule key)).markKeyLoaded).setKeyHalves (keyHalvesAfter key 16)).setRound 15#4)).respond
    (.ok 0#64))

end Sys2Proof.Machine
end

