-- ==== Sys2Proof/Machine/Round.lean ====
section
/-! DEFINITION. The round level (R117, R150): the acceptance of a command, and the micro-steps of one in progress. -/

namespace Sys2Proof.Machine

/-- Acceptance of LOADKEY: `C` and `D` from PC-1, `RND` 0, `KEY_VALID` 0, `PHASE` KEYGEN (R117). -/
def acceptLoadkey (data : Block) (s : State) : StepResult :=
  .next ((((s.setKeyHalves (initialKeyHalves (operandVector data))).setRound 0#4).setKeyValid false).setPhase .keygen)

/-- Acceptance of ENCRYPT or DECRYPT: the `KEY_VALID` test, then `L` and `R` from IP, `RND` 0, `DIR`, `PHASE` ROUNDS
(R150, R185). -/
def acceptBlock (dir : Dir) (data : Block) (s : State) : StepResult :=
  s.requireKey fun s =>
    .next ((((s.setBlockHalves (initialBlockHalves (operandVector data))).setRound 0#4).setDir dir).setPhase .rounds)

/-- Acceptance of a command at the round level; NOP takes no time and an error response no rounds (R147, R208). -/
def acceptCommand : Instr → State → StepResult
  | .nop _, s => .next s
  | .loadkey data, s => acceptLoadkey data s
  | .encrypt data, s => acceptBlock .enc data s
  | .decrypt data, s => acceptBlock .dec data s

/-- One micro-step of a LOADKEY: rotate, write `RK[RND]`, and at round 15 finish (R117). -/
def keygenStep (s : State) : State :=
  let h := rotateHalves s.keyHalves s.rnd
  let t := (s.setKeyHalves h).writeRoundKey s.rnd (selectRoundKey h)
  if s.rnd = 15#4 then ((t.setKeyValid true).setPhase .idle).respond (.ok 0#64) else t.setRound (s.rnd + 1)

/-- One micro-step of a block operation: read `RK[kidx(DIR, RND)]`, one Feistel round, and at round 15 finish (R150). -/
def roundsStep (s : State) : StepResult :=
  match s.readRoundKey (keyIndex s.dir s.rnd) with
  | .error f => .fault f
  | .ok k =>
    let h := feistelRound s.blockHalves k
    let t := s.setBlockHalves h
    if s.rnd = 15#4 then .next ((t.setPhase .idle).respond (.ok (resultField (finalBlock h))))
    else .next (t.setRound (s.rnd + 1))

/-- What the engine does of itself at one point: nothing when idle (R210), else one micro-step (R117, R150). -/
def microStep (s : State) : StepResult :=
  match s.phase with
  | .idle => .next s
  | .keygen => .next (keygenStep s)
  | .rounds => roundsStep s

end Sys2Proof.Machine
end

