-- ==== Sys2Proof/Machine/Ports.lean ====
section
/-! DEFINITION. The handshake of the command port (R79), the response port (R79), and the reset input (R185, R201). -/

namespace Sys2Proof.Machine

/-- The ports when the host drives nothing (R79). -/
def PortInput.quiet : PortInput := { rst := false, cmdValid := false, cmd := 0#66 }

/-- The host presents a command word (R79). -/
def PortInput.present (w : CommandWord) : PortInput := { rst := false, cmdValid := true, cmd := w }

/-- The host requests reset (R200). -/
def PortInput.requestReset : PortInput := { rst := true, cmdValid := false, cmd := 0#66 }

/-- What the host drives at this point. -/
def State.portInput (s : State) : PortInput := s.inputs.headD PortInput.quiet

/-- On to the next point: the input of this one is spent, and the response presented at it has been transferred, so that
each response is presented exactly once (R79). -/
def State.nextPoint (s : State) : State := { s with inputs := s.inputs.drop 1, rsp := none }

/-- One point of the engine's ports.  Reset wins over a command (R185, R201).  A command is accepted exactly when it is
presented and the engine is idle (R79, R152); one presented to a busy engine has no effect, and the engine goes on with the
command in progress.  `accept` is what acceptance does, at the level chosen (R12). -/
def atPoint (accept : Instr → State → StepResult) (s : State) : StepResult :=
  let p := s.portInput
  let t := s.nextPoint
  if p.rst then .next t.resetEvent
  else if t.cmdReady && p.cmdValid then accept (decode p.cmd) t
  else microStep t

/-- The round-level machine: every command takes its acceptance and then its micro-steps (R12, R117, R150). -/
def roundStep (s : State) : StepResult := atPoint acceptCommand s

/-- `n` points of either machine, stopping at the first fault or refusal. -/
def runPoints (stepOf : State → StepResult) : Nat → State → StepResult
  | 0, s => .next s
  | n + 1, s =>
    match stepOf s with
    | .next t => runPoints stepOf n t
    | .fault f => .fault f
    | .refused r => .refused r

/-- The host's next inputs are the words of these commands, one a point. -/
def State.drive (s : State) (commands : List Instr) : State :=
  { s with inputs := commands.map fun i => PortInput.present (encode i) }

end Sys2Proof.Machine
end

