-- ==== Sys2Proof/Machine/Step.lean ====
section
/-! DEFINITION. One step of the machine at the command level, the normative one: an accepted command is one atomic
step (R12). -/

namespace Sys2Proof.Machine

/-- One point: the input ports are read, and an accepted command is executed whole (R12, R79, R152). -/
def step (s : State) : Host.Outcome State Fault Refusal := atPoint exec s

/-- `s` with the command word `w` presented on the command port at the point of the next step, and the engine ready to
accept it: there is no program counter and no fetch (10_state.md section 4), the host presents each command (R79). -/
def State.withFetchWord (s : State) (nbits w : Nat) : State :=
  { s with phase := .idle, inputs := PortInput.present (BitVec.ofNat 66 (w % 2 ^ nbits)) :: s.inputs }

end Sys2Proof.Machine
end

