-- ==== Sys2Proof/Machine/Text.lean ====
section
/-! DEFINITION. The textual syntax of commands and responses (R77, R78).  Text is a list of characters. -/

namespace Sys2Proof.Machine

/-- The sixteen hexadecimal digits, as the spec writes them. -/
def upperDigits : List Char := ['0', '1', '2', '3', '4', '5', '6', '7', '8', '9', 'A', 'B', 'C', 'D', 'E', 'F']

/-- The lower-case spelling of the same digits.  DESIGN CHOICE: accepted in an operand; assumption log 6. -/
def lowerDigits : List Char := ['0', '1', '2', '3', '4', '5', '6', '7', '8', '9', 'a', 'b', 'c', 'd', 'e', 'f']

/-- `n` hexadecimal digits of `v`, most-significant first (R77). -/
def hexDigits : Nat → Nat → List Char
  | 0, _ => []
  | n + 1, v => hexDigits n (v / 16) ++ [upperDigits.getD (v % 16) '0']

/-- The value of one hexadecimal digit. -/
def hexValue (c : Char) : Option Nat :=
  match upperDigits.idxOf? c with
  | some d => some d
  | none => lowerDigits.idxOf? c

/-- The value of a sequence of hexadecimal digits, most-significant first, after those already read. -/
def readHex : Nat → List Char → Option Nat
  | v, [] => some v
  | v, c :: cs =>
    match hexValue c with
    | some d => readHex (16 * v + d) cs
    | none => none

/-- `0x` and the 16 digits of a 64-bit value (R77). -/
def blockText (x : Block) : List Char := '0' :: 'x' :: hexDigits 16 x.toNat

/-- An operand: `0x` followed by exactly 16 hexadecimal digits (R77). -/
def readOperand (cs : List Char) : Option Block :=
  match cs with
  | '0' :: 'x' :: digits => if digits.length = 16 then (readHex 0 digits).map (BitVec.ofNat 64) else none
  | _ => none

def textNop : List Char := ['N', 'O', 'P']
def textLoadkey : List Char := ['L', 'O', 'A', 'D', 'K', 'E', 'Y']
def textEncrypt : List Char := ['E', 'N', 'C', 'R', 'Y', 'P', 'T']
def textDecrypt : List Char := ['D', 'E', 'C', 'R', 'Y', 'P', 'T']

/-- The line of a command (R77).  NOP is written without its ignored operand. -/
def commandText : Instr → List Char
  | .nop _ => textNop
  | .loadkey d => textLoadkey ++ ' ' :: blockText d
  | .encrypt d => textEncrypt ++ ' ' :: blockText d
  | .decrypt d => textDecrypt ++ ' ' :: blockText d

/-- The 66-bit word: one digit for `op`, an underscore, 16 digits of `data` (R77). -/
def wordText (w : CommandWord) : List Char :=
  '0' :: 'x' :: hexDigits 1 (opField w).toNat ++ '_' :: hexDigits 16 (dataField w).toNat

/-- A response: `OK 0x<16 digits>` or `ERR KeyNotLoaded` (R77). -/
def responseText : Response → List Char
  | .ok data => 'O' :: 'K' :: ' ' :: blockText data
  | .keyNotLoaded =>
    ['E', 'R', 'R', ' ', 'K', 'e', 'y', 'N', 'o', 't', 'L', 'o', 'a', 'd', 'e', 'd']

/-- What one line of text stands for. -/
inductive Line where
  /-- Nothing but white space and comment. -/
  | blank
  | command (i : Instr)
  | malformed
  deriving DecidableEq, Repr

/-- The words of a line, separated by spaces and tabs; `word` is what has been read of the current one. -/
def splitWords : List Char → List Char → List (List Char)
  | word, [] => if word.isEmpty then [] else [word]
  | word, c :: cs =>
    if c = ' ' ∨ c = '\t' then (if word.isEmpty then splitWords [] cs else word :: splitWords [] cs)
    else splitWords (word ++ [c]) cs

/-- Reading one line: a `;` starts a comment, the mnemonic is in capitals, NOP takes no operand and assembles with
`data = 0`, the others take exactly one (R77).  No other spelling is accepted (R78). -/
def readLine (line : List Char) : Line :=
  match splitWords [] (line.takeWhile fun c => c ≠ ';') with
  | [] => .blank
  | [m] => if m = textNop then .command (.nop 0#64) else .malformed
  | [m, x] =>
    match readOperand x with
    | none => .malformed
    | some d =>
      if m = textLoadkey then .command (.loadkey d)
      else if m = textEncrypt then .command (.encrypt d)
      else if m = textDecrypt then .command (.decrypt d)
      else .malformed
  | _ => .malformed

end Sys2Proof.Machine
end

