-- ==== Sys2Proof/Machine/HostAdapter.lean ====
section
/-! DEFINITION. The host adapter (44_host_adapter.md): software outside the engine (R165), which turns files of bytes
into commands and responses into files.  It reaches the engine only through the command and response ports. -/

namespace Sys2Proof.Machine

/-- Packing: `X.at(8·i + j) = (byte[i] >> j) & 1`; byte 0 at the most-significant end, each byte's least-significant bit
first (R166). -/
def packBytes (g : List Byte) : Block := ofBits 64 fun n => (g.getD (n / 8) 0#8).getLsbD (n % 8)

/-- Unpacking, the inverse: `byte[i] = Σ_j X.at(8·i + j) · 2^j` (R167). -/
def unpackBlock (x : Block) : List Byte :=
  (List.range 8).map fun i => ofBits 8 fun m => bitAt x (8 * i + (7 - m))

/-- A group of `L < 8` bytes is completed with `8 − L` bytes of value `8 − L`; one of 8 bytes stays (R169). -/
def fillGroup (g : List Byte) : List Byte := g ++ List.replicate (8 - g.length) (BitVec.ofNat 8 (8 - g.length))

/-- The first `n` groups of 8 bytes, the last one perhaps short (R168). -/
def splitGroups : Nat → List Byte → List (List Byte)
  | 0, _ => []
  | n + 1, bytes => bytes.take 8 :: splitGroups n (bytes.drop 8)

/-- How many groups a file has: none for the empty file, and no extra one for an exact multiple of 8 (R168, R170). -/
def groupCount (bytes : List Byte) : Nat := (bytes.length + 7) / 8

/-- The groups given to the engine, the last one filled (R168, R169, R170). -/
def fileGroups (bytes : List Byte) : List (List Byte) := (splitGroups (groupCount bytes) bytes).map fillGroup

/-- Why the adapter stops. -/
inductive AdapterStop where
  /-- Decrypting an input whose length is not a multiple of 8: the source gives it no meaning (N10, U7). -/
  | partialCiphertext
  /-- The engine stopped with a fault or a refusal. -/
  | engineStopped
  /-- An error response, whose data the host may not read (R186). -/
  | badResponse (f : Fault)
  deriving DecidableEq, Repr

/-- The bytes of the responses in order, 8 raw bytes each, with no header or length field (R172). -/
def collectBytes : List Response → Except AdapterStop (List Byte)
  | [] => .ok []
  | a :: rest =>
    match a.readData with
    | .error f => .error (.badResponse f)
    | .ok x =>
      match collectBytes rest with
      | .error e => .error e
      | .ok bytes => .ok (unpackBlock x ++ bytes)

/-- The commands the adapter issues: one LOADKEY, then one block command a group, each group on its own (R165, R168).  The
key is given as a 64-bit value, since the source does not say how the adapter forms it (N9, U8). -/
def fileCommands (dir : Dir) (key : Block) (groups : List (List Byte)) : List Instr :=
  .loadkey key :: groups.map fun g => .block dir (packBytes g)

/-- The engine runs the commands, and the responses after the LOADKEY's become the output bytes (R168, R172). -/
def transformGroups (dir : Dir) (key : Block) (groups : List (List Byte)) (s : State) : Except AdapterStop (List Byte) :=
  let commands := fileCommands dir key groups
  match runPoints step commands.length (s.drive commands) with
  | .next t => collectBytes (t.responses.drop (s.responses.length + 1))
  | .fault _ => .error .engineStopped
  | .refused _ => .error .engineStopped

/-- Encrypting a file (R168 to R170, R172). -/
def encryptFile (key : Block) (bytes : List Byte) (s : State) : Except AdapterStop (List Byte) :=
  transformGroups .enc key (fileGroups bytes) s

/-- Decrypting a file; the padding is not removed (R171). -/
def decryptFile (key : Block) (bytes : List Byte) (s : State) : Except AdapterStop (List Byte) :=
  if bytes.length % 8 = 0 then transformGroups .dec key (splitGroups (groupCount bytes) bytes) s
  else .error .partialCiphertext

end Sys2Proof.Machine
end

