-- ==== Sys2Proof/Safety.lean ====
section
/-! DEFINITION. What a state the engine can be in looks like (R22, R34, R117), and what a run is (R211). -/

namespace Sys2Proof.Machine

/-- `RK[0..15]` holds the complete schedule of this master key (R22, R34). -/
def State.HoldsScheduleOf (s : State) (key : Block) : Prop := s.rk = (keySchedule key).map some

/-- `RK[0..15]` holds the complete schedule of some master key (R22). -/
def State.KeyLoaded (s : State) : Prop := ∃ key, s.HoldsScheduleOf key

/-- A LOADKEY of some key has got as far as `RND`: `KEY_VALID` is 0, `C` and `D` are the halves before round `RND`, and the
round keys below `RND` are this key's (R117). -/
def State.KeygenUnderway (s : State) : Prop :=
  s.keyValid = false ∧ ∃ key, s.keyHalves = keyHalvesAfter key s.rnd.toNat ∧
    ∀ i : RoundIndex, i < s.rnd → s.rkAt i = some (roundKeyOf key i.toNat)

/-- The key invariant, phase by phase (R22, R34, R117, R150). -/
def State.KeyInv (s : State) : Prop :=
  match s.phase with
  | .idle => s.keyValid = true → s.KeyLoaded
  | .keygen => s.KeygenUnderway
  | .rounds => s.keyValid = true ∧ s.KeyLoaded

/-- The response presented is the last of the response stream (R73, R80). -/
def State.ResponseInv (s : State) : Prop := ∀ a, s.rsp = some a → s.responses.getLast? = some a

/-- What every reachable state meets, and every step of either machine keeps. -/
def State.Inv (s : State) : Prop := s.KeyInv ∧ s.ResponseInv

/-- The number of responses a command produces when accepted: one, and none for NOP (R80). -/
def responseCount : Instr → Nat
  | .nop _ => 0
  | .loadkey _ => 1
  | .encrypt _ => 1
  | .decrypt _ => 1

/-- The response of a command while `RK` holds this schedule and `KEY_VALID` is 1; NOP has none (R71, R116, R145, R146). -/
def responseUnder (ks : Schedule) : Instr → Option Response
  | .nop _ => none
  | .loadkey _ => some (.ok 0#64)
  | .encrypt x => some (.ok (crypt .enc x ks))
  | .decrypt x => some (.ok (crypt .dec x ks))

/-- A run has ended: every command has been accepted, and the engine is idle (R211). -/
def State.runEnded (s : State) : Bool := s.inputs.isEmpty && s.cmdReady

/-- The observable result of a run (R211): the responses and `KEY_VALID`, and nothing of `L`, `R`, `C`, `D`, `RND`, `DIR`.
DESIGN CHOICE: `rk` is exposed too, which R211 leaves to the model; assumption log 18. -/
structure RunResult where
  responses : List Response
  keyValid  : Bool
  rk        : Vector (Option RoundKey) 16
  deriving DecidableEq, Repr

/-- The result of a run that ends in this state (R211).  The host itself cannot read `rk` (R191; assumption log 18). -/
def State.runResult (s : State) : RunResult :=
  { responses := s.responses, keyValid := s.keyValid, rk := s.rk }

/-- The host drives these commands, one after another, from `s` (R211). -/
def runCommands (commands : List Instr) (s : State) : StepResult :=
  runPoints step commands.length (s.drive commands)

end Sys2Proof.Machine
end

