-- ==== Sys2Proof/Certificates/Slice0/Obligations.lean ====
section
/-! DEFINITION. The statements for the provers, in the order of the spec's files.  Each docstring names the rules it
formalises, or the assumption log entry of a clause that is the model's own choice. -/

open Sys2Proof Sys2Proof.Machine

/-! ## Encoding (30_encoding.md) -/

/-- Decoding the word of any command gives the command back: no bit of an encoding is dropped (R70, R71). -/
def Obligations.DecodeOfEncode : Prop :=
  ∀ i : Instr, i.wellFormed = true → decode (encode i) = i

/-- Every one of the 2^66 words decodes to a legal command, which encodes to that word again (R74). -/
def Obligations.EncodeOfDecode : Prop :=
  ∀ w : CommandWord, (decode w).wellFormed = true ∧ encode (decode w) = w

/-- The opcode map: the match value of each row under the one mask, the four values of `op`, and `cmd[65]` = 1 for a block
command with `cmd[64]` its direction (R71). -/
def Obligations.DecodeFollowsOpcodeMap : Prop :=
  ∀ w : CommandWord,
    w &&& opMask = opMatch (decode w) ∧
    (opField w = 0b00#2 → decode w = .nop (dataField w)) ∧
    (opField w = 0b01#2 → decode w = .loadkey (dataField w)) ∧
    (opField w = 0b10#2 → decode w = .encrypt (dataField w)) ∧
    (opField w = 0b11#2 → decode w = .decrypt (dataField w)) ∧
    (w.getLsbD 65 = true → decode w = Instr.block (if w.getLsbD 64 then .dec else .enc) (dataField w))

/-- The operand is the `data` field whole and unmodified, with `cmd[63]` as its index 0 and `cmd[0]` as its index 63; and
the result stands in the response word the same way (R72). -/
def Obligations.DataFieldIsOperandWhole : Prop :=
  (∀ (w : CommandWord) (i : Nat), i < 64 → bitAt (operandVector (operand (decode w))) i = w.getLsbD (63 - i)) ∧
  (∀ (v : Block) (w : ResponseWord), (Response.ok (resultField v)).isWord w = true →
    ∀ i : Nat, i < 64 → w.getLsbD (63 - i) = bitAt v i)

/-- Words written out from the spec's encoding decode to the commands they stand for (R70, R71, R77). -/
def Obligations.WrittenWordsDecode : Prop :=
  decode 0x00000000000000000#66 = .nop 0#64 ∧
  decode 0x0FFFFFFFFFFFFFFFF#66 = .nop 0xFFFFFFFFFFFFFFFF#64 ∧
  decode 0x1133457799BBCDFF1#66 = .loadkey 0x133457799BBCDFF1#64 ∧
  decode 0x20123456789ABCDEF#66 = .encrypt 0x0123456789ABCDEF#64 ∧
  decode 0x385E813540F0AB405#66 = .decrypt 0x85E813540F0AB405#64 ∧
  decodeTableWord 66 0x20123456789ABCDEF = some (.encrypt 0x0123456789ABCDEF#64)

/-- The response word: `rsp[64]` is the `err` bit, `rsp[63:0]` the data when it is 0; every word with `rsp[64]` = 1 is a word
of the error response, whose data the host may not read (R73, R186). -/
def Obligations.ResponseWordFormat : Prop :=
  (∀ (data : Block) (w : ResponseWord),
    (Response.ok data).isWord w = true ↔ (w.getLsbD 64 = false ∧ w.extractLsb' 0 64 = data)) ∧
  (∀ w : ResponseWord, Response.keyNotLoaded.isWord w = true ↔ w.getLsbD 64 = true) ∧
  (∀ a : Response, (a.readData = .error .errorResponseDataRead ↔ a.err = true))

/-- Reading the line of a command gives the command, NOP with `data` 0 (R77). -/
def Obligations.ReadLineOfCommandText : Prop :=
  ∀ i : Instr, (∀ d, i = .nop d → d = 0#64) → readLine (commandText i) = .command i

/-! ## The constant tables (40_tables.md) -/

/-- The engine's tables pass the integrity check (R99, R181; the entries themselves are assumption log 1). -/
def Obligations.TablesPassIntegrityCheck : Prop := engineTables.wellFormed = true

/-- The initial and the final permutation undo each other, both ways (R92). -/
def Obligations.InitialAndFinalPermutationsInvert : Prop :=
  ∀ v : Block, permute 64 engineTables.fp (permute 64 engineTables.ip v) = v ∧
    permute 64 engineTables.ip (permute 64 engineTables.fp v) = v

/-! ## The key schedule (41_key_schedule.md) -/

/-- Rotation as integers: the bits that leave at the most-significant end re-enter at the other, in order (R112). -/
def Obligations.RotationAsIntegers : Prop :=
  ∀ (v : KeyHalf) (s : Nat), s = 1 ∨ s = 2 →
    (rotl28 v s).toNat = ((v.toNat <<< s) ||| (v.toNat >>> (28 - s))) &&& 0xFFFFFFF

/-- After round i the halves are the first ones rotated by `CUM[i]`, and after the last they are the first ones again
(R114, R118(a) and (b)). -/
def Obligations.RotationStateAccumulates : Prop :=
  ∀ key : Block,
    (∀ i, i < 16 → keyHalvesAfter key (i + 1) =
      { c := rotl28 (initialKeyHalves key).c (cumulativeShift i),
        d := rotl28 (initialKeyHalves key).d (cumulativeShift i) }) ∧
    keyHalvesAfter key 16 = initialKeyHalves key

/-- Every bit of every round key is one key bit: bit j of `K[i]` is the key position that `PC1` puts where `PC2[j]` points
after a rotation by `CUM[i]` inside its half (R110, R113, R114). -/
def Obligations.RoundKeyBitIsOneKeyBit : Prop :=
  ∀ (key : Block) (i : RoundIndex) (j : Nat), j < 48 →
    let p := engineTables.pc2.getD j 0 - 1
    bitAt (scheduleKey (keySchedule key) i) j =
      bitPos key (engineTables.pc1.getD (28 * (p / 28) + (p % 28 + cumulativeShift i.toNat) % 28) 0)

/-- Keys that differ only in the eight parity-position bits have the same schedule, and at either level LOADKEY of one leaves
exactly the state that LOADKEY of the other leaves (R111, R118(c)). -/
def Obligations.ParityBitsDoNotMatter : Prop :=
  ∀ (key m : Block), m &&& ~~~0x0101010101010101#64 = 0#64 →
    keySchedule (key ^^^ m) = keySchedule key ∧
    ∀ s : State, exec (.loadkey (key ^^^ m)) s = exec (.loadkey key) s ∧
      acceptCommand (.loadkey (key ^^^ m)) s = acceptCommand (.loadkey key) s

/-- The schedule of the complemented key is the complemented schedule (R118(d)). -/
def Obligations.ScheduleOfComplement : Prop :=
  ∀ (key : Block) (i : RoundIndex), scheduleKey (keySchedule (~~~key)) i = ~~~scheduleKey (keySchedule key) i

/-- The first 24 bits of a round key depend only on `C` and the last 24 only on `D` (R96). -/
def Obligations.RoundKeyHalvesDependOnOneHalf : Prop :=
  ∀ h h' : KeyHalves,
    (h.c = h'.c → ∀ j, j < 24 → bitAt (selectRoundKey h) j = bitAt (selectRoundKey h') j) ∧
    (h.d = h'.d → ∀ j, 24 ≤ j → j < 48 → bitAt (selectRoundKey h) j = bitAt (selectRoundKey h') j)

/-- If `C[0]` is all zeros or all ones, and `D[0]` likewise, all sixteen round keys are equal; and what they are for the four
keys of that kind (R118(e)). -/
def Obligations.ConstantHalvesGiveEqualRoundKeys : Prop :=
  (∀ key : Block,
    ((initialKeyHalves key).c = 0#28 ∨ (initialKeyHalves key).c = 0xFFFFFFF#28) →
    ((initialKeyHalves key).d = 0#28 ∨ (initialKeyHalves key).d = 0xFFFFFFF#28) →
    ∀ i j : RoundIndex, scheduleKey (keySchedule key) i = scheduleKey (keySchedule key) j) ∧
  (∀ i : RoundIndex,
    scheduleKey (keySchedule 0x0101010101010101#64) i = 0x000000000000#48 ∧
    scheduleKey (keySchedule 0xFEFEFEFEFEFEFEFE#64) i = 0xFFFFFFFFFFFF#48 ∧
    scheduleKey (keySchedule 0xE0E0E0E0F1F1F1F1#64) i = 0xFFFFFF000000#48 ∧
    scheduleKey (keySchedule 0x1F1F1F1F0E0E0E0E#64) i = 0x000000FFFFFF#48)

/-! ## The round function (42_feistel_round.md) -/

/-- Output group g of the expansion is input indices 4g−1 .. 4g+4, modulo 32 (R93, R126). -/
def Obligations.ExpansionGroupTakesNeighbours : Prop :=
  ∀ (s : HalfBlock) (g k : Nat), g < 8 → k < 6 → bitAt (expand s) (6 * g + k) = bitAt s ((4 * g + k + 31) % 32)

/-- Each 6-bit group is replaced by its own box's entry at the row of the outer and the column of the inner bits, which is
always in range, and the entry enters most-significant bit first (R128, R129, R130). -/
def Obligations.SubstitutionPlacesEntries : Prop :=
  ∀ (x : BitVec 48) (g k : Nat), g < 8 → k < 4 →
    sboxRow (group6 x g) < 4 ∧ sboxColumn (group6 x g) < 16 ∧
    bitAt (substitute x) (4 * g + k) =
      (sboxEntry g (sboxRow (group6 x g)) (sboxColumn (group6 x g))).testBit (3 - k)

/-- Complementing both arguments of `F` changes nothing (R133(a)). -/
def Obligations.RoundFunctionOfComplements : Prop :=
  ∀ (s : HalfBlock) (k : RoundKey), roundFunction (~~~s) (~~~k) = roundFunction s k

/-! ## The block transform (43_block_cipher.md) -/

/-- The correctness contract and its converse, for any sixteen round keys whatever (R148). -/
def Obligations.CryptDirectionsInvert : Prop :=
  ∀ (ks : Schedule) (x : Block), crypt .dec (crypt .enc x ks) ks = x ∧ crypt .enc (crypt .dec x ks) ks = x

/-- Decryption is encryption with the schedule reversed (R153(a)). -/
def Obligations.DecryptIsEncryptReversed : Prop :=
  ∀ (ks : Schedule) (x : Block), crypt .dec x ks = crypt .enc x ks.reverse

/-- Under a schedule that reads the same in both directions the two commands agree, and encrypting twice returns the block
(R153(b)). -/
def Obligations.PalindromicScheduleUndoesItself : Prop :=
  ∀ (ks : Schedule) (x : Block), (∀ i : RoundIndex, scheduleKey ks i = scheduleKey ks (15#4 - i)) →
    crypt .enc x ks = crypt .dec x ks ∧ crypt .enc (crypt .enc x ks) ks = x

/-- Complementation, in both directions (R153(c)). -/
def Obligations.ComplementedKeyAndBlock : Prop :=
  ∀ (dir : Dir) (key x : Block), crypt dir (~~~x) (keySchedule (~~~key)) = ~~~crypt dir x (keySchedule key)

/-- The known-answer vector, as two commands after reset (R72, R116, R145). -/
def Obligations.KnownAnswerVector : Prop :=
  ∃ t, runCommands [.loadkey 0x133457799BBCDFF1#64, .encrypt 0x0123456789ABCDEF#64] State.reset = .next t ∧
    t.responses = [.ok 0#64, .ok 0x85E813540F0AB405#64]

/-! ## The commands (41_key_schedule.md section 2, 43_block_cipher.md section 3, 60_exceptions.md) -/

/-- NOP, every word with `op = 00`: at either level no state is read or written and no response is produced, whatever `KEY_VALID` is,
and the engine is idle again at once (R147). -/
def Obligations.NopHasNoEffect : Prop :=
  ∀ (w : CommandWord) (s : State), opField w = 0b00#2 →
    exec (decode w) s = .next s ∧ acceptCommand (decode w) s = .next s

/-- LOADKEY, every word with `op = 01` and every state, whatever `RK` and `KEY_VALID` were: the sixteen round keys, `KEY_VALID`
and the zero response (R116).  The working registers: `WorkingRegistersAfterCommands`. -/
def Obligations.LoadkeyResult : Prop :=
  ∀ (w : CommandWord) (s : State), opField w = 0b01#2 →
    ∃ t, exec (decode w) s = .next t ∧
      t.rk = (keySchedule (dataField w)).map some ∧ t.keyValid = true ∧
      t.rsp = some (.ok 0#64) ∧ t.responses = s.responses ++ [.ok 0#64]

/-- ENCRYPT, every word with `op = 10`: the error and nothing else with no key loaded, else the ciphertext, with `RK` and
`KEY_VALID` unchanged (R145).  The working registers: `WorkingRegistersAfterCommands`. -/
def Obligations.EncryptResult : Prop :=
  ∀ (w : CommandWord) (s : State), opField w = 0b10#2 →
    (s.keyValid = false → exec (decode w) s = .next { s with
      rsp := some .keyNotLoaded
      responses := s.responses ++ [.keyNotLoaded] }) ∧
    (∀ ks : Schedule, s.keyValid = true → s.rk = ks.map some →
      ∃ t, exec (decode w) s = .next t ∧
        t.rsp = some (.ok (crypt .enc (dataField w) ks)) ∧
        t.responses = s.responses ++ [.ok (crypt .enc (dataField w) ks)] ∧
        t.rk = s.rk ∧ t.keyValid = s.keyValid)

/-- DECRYPT, every word with `op = 11`: as ENCRYPT, with the other direction (R146). -/
def Obligations.DecryptResult : Prop :=
  ∀ (w : CommandWord) (s : State), opField w = 0b11#2 →
    (s.keyValid = false → exec (decode w) s = .next { s with
      rsp := some .keyNotLoaded
      responses := s.responses ++ [.keyNotLoaded] }) ∧
    (∀ ks : Schedule, s.keyValid = true → s.rk = ks.map some →
      ∃ t, exec (decode w) s = .next t ∧
        t.rsp = some (.ok (crypt .dec (dataField w) ks)) ∧
        t.responses = s.responses ++ [.ok (crypt .dec (dataField w) ks)] ∧
        t.rk = s.rk ∧ t.keyValid = s.keyValid)

/-- What the commands leave in the working registers, the model's choice (assumption log 8): what the sixteen micro-steps
leave there.  Each next state is written out whole, so nothing else changes. -/
def Obligations.WorkingRegistersAfterCommands : Prop :=
  (∀ (key : Block) (s : State), exec (.loadkey key) s = .next { s with
      rk := (keySchedule key).map some
      keyValid := true
      c := (keyHalvesAfter key 16).c
      d := (keyHalvesAfter key 16).d
      rnd := 15#4
      rsp := some (.ok 0#64)
      responses := s.responses ++ [.ok 0#64] }) ∧
  (∀ (dir : Dir) (x : Block) (ks : Schedule) (s : State), s.keyValid = true → s.rk = ks.map some →
    exec (Instr.block dir x) s = .next { s with
      l := (blockHalvesAfter dir x ks 16).l
      r := (blockHalvesAfter dir x ks 16).r
      rnd := 15#4
      dir := dir
      rsp := some (.ok (crypt dir x ks))
      responses := s.responses ++ [.ok (crypt dir x ks)] })

/-- With `KEY_VALID` = 1 and a round key unwritten, a block command stops at the first unwritten one in its reading order.
That a read of one faults is the spec's (R36, R200); that the command stops at the first one in the order of R53 is the
model's deduction (assumption log 3).  No reachable state is such: `EngineNeverStops`. -/
def Obligations.BlockCommandStopsOnUnwrittenKey : Prop :=
  ∀ (dir : Dir) (x : Block) (s : State) (i : RoundIndex), s.keyValid = true →
    s.rkAt (keyIndex dir i) = none →
    (∀ j : RoundIndex, j < i → s.rkAt (keyIndex dir j) ≠ none) →
    exec (Instr.block dir x) s = .fault (.unwrittenRoundKey (keyIndex dir i))

/-- `KeyNotLoaded` is raised by ENCRYPT and DECRYPT when `KEY_VALID` = 0, by nothing else and at no other time; the error
response is all it leaves (R182). -/
def Obligations.KeyNotLoadedExactlyWithoutKey : Prop :=
  ∀ (i : Instr) (s t : State), exec i s = .next t →
    (t.responses = s.responses ++ [.keyNotLoaded] ↔ (∃ dir x, i = Instr.block dir x) ∧ s.keyValid = false) ∧
    (∀ dir x, i = Instr.block dir x → s.keyValid = false →
      t = { s with rsp := some .keyNotLoaded, responses := s.responses ++ [.keyNotLoaded] })

/-- What `raise KeyNotLoaded` does, at both levels: the error response, no other change of state, no round, and the engine is
still idle; and the data of that response is not for the host to read (R186). -/
def Obligations.KeyNotLoadedChangesNothing : Prop :=
  (∀ (s : State) (w : CommandWord) (rest : List PortInput),
    s.phase = .idle → s.keyValid = false → s.inputs = PortInput.present w :: rest → w.getLsbD 65 = true →
    let t := { s with inputs := rest, rsp := some .keyNotLoaded, responses := s.responses ++ [.keyNotLoaded] }
    step s = .next t ∧ roundStep s = .next t ∧ t.cmdReady = true) ∧
  Response.keyNotLoaded.readData = .error .errorResponseDataRead

/-- Each accepted LOADKEY, ENCRYPT or DECRYPT produces exactly one response, which is the one presented; NOP none (R80). -/
def Obligations.OneResponsePerCommand : Prop :=
  ∀ (i : Instr) (s t : State), exec i s = .next t →
    ∃ l : List Response, t.responses = s.responses ++ l ∧ l.length = responseCount i ∧
      (responseCount i = 1 → l.head? = t.rsp)

/-- What the commands leave alone: `PHASE` and what the host drives, always; everything, for NOP; `RK` and `KEY_VALID`, but for
LOADKEY (R21, R22, R116, R145, R146, R147).  That `C` and `D` change by LOADKEY only, and `L`, `R` and `DIR` not by LOADKEY, is
the model's choice (assumption log 8).  The response port: `OneResponsePerCommand`. -/
def Obligations.CommandFrames : Prop :=
  ∀ (i : Instr) (s t : State), exec i s = .next t →
    t.phase = s.phase ∧ t.inputs = s.inputs ∧ t.resetCount = s.resetCount ∧
    ((∃ d, i = .nop d) → t = s) ∧
    ((∀ k, i ≠ .loadkey k) → t.rk = s.rk ∧ t.keyValid = s.keyValid ∧ t.c = s.c ∧ t.d = s.d) ∧
    ((∃ k, i = .loadkey k) → t.l = s.l ∧ t.r = s.r ∧ t.dir = s.dir)

/-- Repeating a command: a second LOADKEY of the same key changes nothing but the response stream, and a second block
command under the same schedule gives the same response and changes nothing else (R58, R116, R188).  That the working
registers too end the same is the model's choice (assumption log 8). -/
def Obligations.CommandsRepeat : Prop :=
  (∀ (key : Block) (s t : State), exec (.loadkey key) s = .next t →
    exec (.loadkey key) t = .next { t with responses := t.responses ++ [.ok 0#64] }) ∧
  (∀ (dir : Dir) (x : Block) (s t : State), exec (Instr.block dir x) s = .next t →
    ∃ a, t.rsp = some a ∧ exec (Instr.block dir x) t = .next { t with responses := t.responses ++ [a] })

/-- The response of a block command depends on nothing but the block, the direction, `RK` and `KEY_VALID`: two engines that
agree on these respond alike (R13, R194). -/
def Obligations.ResponseDependsOnScheduleOnly : Prop :=
  ∀ (dir : Dir) (x : Block) (s s' t : State), s.rk = s'.rk → s.keyValid = s'.keyValid →
    exec (Instr.block dir x) s = .next t →
    ∃ t', exec (Instr.block dir x) s' = .next t' ∧ t'.rsp = t.rsp

/-! ## Ports, handshake and reset (10_state.md section 7, 30_encoding.md section 6, 70_reset_and_hazards.md) -/

/-- A command presented to an idle engine is accepted and run, at the command level as `exec` says and at the round level as
`acceptCommand` says (R79, R152).  That a step from `withFetchWord` runs the word is the model's own (assumption log 5). -/
def Obligations.StepRunsPresentedCommand : Prop :=
  (∀ (s : State) (w : CommandWord) (rest : List PortInput),
    s.phase = .idle → s.inputs = PortInput.present w :: rest →
    step s = exec (decode w) { s with inputs := rest, rsp := none } ∧
    roundStep s = acceptCommand (decode w) { s with inputs := rest, rsp := none }) ∧
  (∀ (s : State) (w : CommandWord),
    step (s.withFetchWord 66 w.toNat) = exec (decode w) { s with phase := .idle, rsp := none })

/-- A command presented to a busy engine has no effect: whatever the host drives or does not drive, but `rst`, makes no
difference, and the engine goes on with its micro-step (R79).  A busy engine in `step`, where the spec's command level is always
idle between steps (R23), is the model's choice (assumption log 9). -/
def Obligations.BusyEngineIgnoresCommand : Prop :=
  ∀ s : State, s.phase ≠ .idle → s.portInput.rst = false →
    step s = microStep { s with inputs := s.inputs.drop 1, rsp := none } ∧
    roundStep s = microStep { s with inputs := s.inputs.drop 1, rsp := none }

/-- An idle engine stays idle until a command is presented, and presents a response only once (R79, R210). -/
def Obligations.IdleEngineStaysIdle : Prop :=
  ∀ s : State, s.phase = .idle → s.portInput.rst = false → s.portInput.cmdValid = false →
    step s = .next { s with inputs := s.inputs.drop 1, rsp := none } ∧
    roundStep s = .next { s with inputs := s.inputs.drop 1, rsp := none }

/-- Reset, at any time and against any command: the state after it is as the spec says, a command in progress is abandoned
without a response, and one presented with it is not accepted (R200, R201). -/
def Obligations.ResetEventWins : Prop :=
  ∀ s : State, s.portInput.rst = true →
    ∃ t, step s = .next t ∧ roundStep s = .next t ∧
      t.keyValid = false ∧ t.rk = Vector.replicate 16 none ∧ t.phase = .idle ∧ t.rsp = none ∧
      t.cmdReady = true ∧ t.rspValid = false ∧ t.keyValidOut = false ∧
      t.responses = s.responses ∧ t.inputs = s.inputs.drop 1

/-- What reset leaves, of what the spec gives a value: `KEY_VALID` 0, `PHASE` IDLE, no response pending, no round key with a
value, the engine ready (R200).  The other registers of `State.reset` are assumption log 2. -/
def Obligations.ResetStateAsSpecified : Prop :=
  State.reset.keyValid = false ∧ State.reset.phase = .idle ∧ State.reset.rsp = none ∧
  (∀ i : RoundIndex, State.reset.rkAt i = none) ∧
  State.reset.cmdReady = true ∧ State.reset.rspValid = false ∧ State.reset.keyValidOut = false

/-- In any step of the command-level machine from any state: nothing but reset clears `KEY_VALID`; nothing but the completion of
a LOADKEY, never a reset, sets it; and nothing but the two changes a round key (R21, R22).  A LOADKEY in progress in `step`, where
the spec's command level is always idle between steps (R23), is the model's choice (assumption log 9). -/
def Obligations.OnlyLoadkeyAndResetChangeKeys : Prop :=
  ∀ s t : State, step s = .next t →
    (s.keyValid = true → t.keyValid = false → s.portInput.rst = true) ∧
    (s.keyValid = false → t.keyValid = true → s.portInput.rst = false ∧
      ((s.phase = .keygen ∧ s.rnd = 15#4) ∨
       (s.phase = .idle ∧ s.portInput.cmdValid = true ∧ ∃ key, decode s.portInput.cmd = .loadkey key))) ∧
    (t.rk ≠ s.rk → s.portInput.rst = true ∨ s.phase = .keygen ∨
      (s.phase = .idle ∧ s.portInput.cmdValid = true ∧ ∃ key, decode s.portInput.cmd = .loadkey key))

/-! ## The round level (rules R117, R150, R24) -/

/-- LOADKEY at the round level: its acceptance, its micro-steps, and that sixteen of them end idle with exactly the `RK`, the
`KEY_VALID` and the response of the command level (R117). -/
def Obligations.LoadkeyMicroSteps : Prop :=
  (∀ (key : Block) (s : State), acceptCommand (.loadkey key) s = .next { s with
    c := firstBits 28 (permute 56 engineTables.pc1 key)
    d := lastBits 28 (permute 56 engineTables.pc1 key)
    rnd := 0#4
    keyValid := false
    phase := .keygen }) ∧
  (∀ s : State, s.phase = .keygen →
    let c' := rotl28 s.c (shiftAmount s.rnd)
    let d' := rotl28 s.d (shiftAmount s.rnd)
    let rk' := s.rk.set s.rnd.toNat (some (permute 48 engineTables.pc2 (c' ++ d'))) s.rnd.isLt
    microStep s = .next (if s.rnd = 15#4
      then { s with
        c := c', d := d', rk := rk', keyValid := true, phase := .idle
        rsp := some (.ok 0#64), responses := s.responses ++ [.ok 0#64] }
      else { s with c := c', d := d', rk := rk', rnd := s.rnd + 1 })) ∧
  (∀ (key : Block) (s u t : State), s.phase = .idle → acceptCommand (.loadkey key) s = .next u →
    exec (.loadkey key) s = .next t →
    ∃ v, runPoints microStep 16 u = .next v ∧ v.phase = .idle ∧
      v.rk = t.rk ∧ v.keyValid = t.keyValid ∧ v.rsp = t.rsp ∧ v.responses = t.responses)

/-- ENCRYPT and DECRYPT at the round level: acceptance, micro-steps, and that sixteen of them end idle with exactly the response
of the command level, and `RK` and `KEY_VALID` unchanged (R150). -/
def Obligations.BlockMicroSteps : Prop :=
  (∀ (dir : Dir) (x : Block) (s : State), s.keyValid = true →
    acceptCommand (Instr.block dir x) s = .next { s with
      l := firstBits 32 (permute 64 engineTables.ip x)
      r := lastBits 32 (permute 64 engineTables.ip x)
      rnd := 0#4
      dir := dir
      phase := .rounds }) ∧
  (∀ (dir : Dir) (x : Block) (s : State), s.keyValid = false →
    acceptCommand (Instr.block dir x) s = .next (s.respond .keyNotLoaded)) ∧
  (∀ (s : State) (k : RoundKey), s.phase = .rounds →
    s.rkAt (s.rnd ^^^ (if s.dir.bit then 15#4 else 0#4)) = some k →
    let r' := s.l ^^^ roundFunction s.r k
    microStep s = .next (if s.rnd = 15#4
      then { s with
        l := s.r, r := r', phase := .idle
        rsp := some (.ok (permute 64 engineTables.fp (r' ++ s.r)))
        responses := s.responses ++ [.ok (permute 64 engineTables.fp (r' ++ s.r))] }
      else { s with l := s.r, r := r', rnd := s.rnd + 1 })) ∧
  (∀ (dir : Dir) (x : Block) (s u t : State), s.phase = .idle → s.keyValid = true →
    acceptCommand (Instr.block dir x) s = .next u → exec (Instr.block dir x) s = .next t →
    ∃ v, runPoints microStep 16 u = .next v ∧ v.phase = .idle ∧
      v.rsp = t.rsp ∧ v.responses = t.responses ∧ v.rk = s.rk ∧ v.keyValid = s.keyValid)

/-- The refinement, through the ports, of LOADKEY and of a block command with `KEY_VALID` = 1: the command presented to an idle
engine and then sixteen points without a reset, whatever the host presents at them, take the round-level machine where one step
takes the command-level machine (R12, R117, R150).  That the working registers too agree is the model's choice (assumption
log 8).  NOP and the error take one point at both levels: `NopHasNoEffect`, `KeyNotLoadedChangesNothing`. -/
def Obligations.RoundLevelRefinesCommandLevel : Prop :=
  ∀ (s : State) (w : CommandWord) (busy rest : List PortInput),
    s.Inv → s.phase = .idle → busy.length = 16 → (∀ q ∈ busy, q.rst = false) →
    (∃ key, decode w = .loadkey key) ∨ ((∃ dir x, decode w = Instr.block dir x) ∧ s.keyValid = true) →
    runPoints roundStep 17 { s with inputs := PortInput.present w :: (busy ++ rest) } =
      step { s with inputs := PortInput.present w :: rest }

/-- Progress: a busy engine that is not reset finishes after exactly the rounds that remain, with one response, and until
then counts the rounds up one by one and stays in its phase (R24, R208, R210). -/
def Obligations.BusyEngineReturnsToIdle : Prop :=
  ∀ s : State, s.Inv → s.phase ≠ .idle → (∀ q ∈ s.inputs.take (16 - s.rnd.toNat), q.rst = false) →
    (∀ n, n < 16 - s.rnd.toNat → ∃ u, runPoints roundStep n s = .next u ∧
      u.phase = s.phase ∧ u.rnd.toNat = s.rnd.toNat + n ∧ u.responses = s.responses) ∧
    (∃ t a, runPoints roundStep (16 - s.rnd.toNat) s = .next t ∧
      t.phase = .idle ∧ t.rnd = 15#4 ∧ t.responses = s.responses ++ [a])

/-! ## Invariants and runs -/

/-- The state after reset meets the invariant (R22, R34, R200). -/
def Obligations.ResetStateMeetsInvariant : Prop := State.reset.Inv

/-- Every step of the command-level machine keeps the invariant: `KEY_VALID` = 1 only over the complete schedule of one
master key, and the response presented is the last of the stream (R22, R34, R57). -/
def Obligations.StepKeepsInvariant : Prop := ∀ s t : State, s.Inv → step s = .next t → t.Inv

/-- Every step of the round-level machine keeps the invariant, also in the middle of a LOADKEY, while `RK` mixes two
schedules (R34, R117, R206). -/
def Obligations.RoundStepKeepsInvariant : Prop := ∀ s t : State, s.Inv → roundStep s = .next t → t.Inv

/-- No data value can make the engine fail: from every state that meets the invariant, with whatever the host drives, both
machines go on; so no unwritten round key is ever read (R36, R180). -/
def Obligations.EngineNeverStops : Prop :=
  ∀ s : State, s.Inv → (∃ t, step s = .next t) ∧ (∃ t, roundStep s = .next t)

/-- Any finite sequence of commands driven into an idle engine is accepted whole, with as many responses as it has commands
other than NOP, and the run ends with the engine idle (R80, R210, R211). -/
def Obligations.CommandSequenceCompletes : Prop :=
  ∀ (commands : List Instr) (s : State), s.Inv → s.phase = .idle →
    ∃ t, runCommands commands s = .next t ∧ t.runEnded = true ∧ t.Inv ∧
      t.responses.length = s.responses.length + (commands.map responseCount).sum

/-- The error is not sticky: the next LOADKEY and the block command after it succeed, and without a LOADKEY the error comes
again (R187, R188). -/
def Obligations.ErrorIsNotSticky : Prop :=
  ∀ (s : State) (dir dir' : Dir) (x y key : Block), s.phase = .idle → s.keyValid = false →
    (∃ t, runCommands [Instr.block dir x, .loadkey key, Instr.block dir' y] s = .next t ∧
      t.responses = s.responses ++ [.keyNotLoaded, .ok 0#64, .ok (crypt dir' y (keySchedule key))]) ∧
    (∃ t, runCommands [Instr.block dir x, Instr.block dir' y] s = .next t ∧
      t.responses = s.responses ++ [.keyNotLoaded, .keyNotLoaded])

/-- Every block command uses the schedule of the last LOADKEY before it and of no other: a LOADKEY, from any idle state and so
after any commands before it, and then any commands without a LOADKEY, NOPs among them, each answered under that schedule, which
stands unchanged at the end (R60(a), R116).  So the engine decrypts what it encrypted, whatever key it held before (R148). -/
def Obligations.LastLoadkeyGoverns : Prop :=
  (∀ (s : State) (key : Block) (commands : List Instr), s.phase = .idle → (∀ i ∈ commands, ∀ k, i ≠ .loadkey k) →
    ∃ t, runCommands (.loadkey key :: commands) s = .next t ∧
      t.responses = s.responses ++ .ok 0#64 :: commands.filterMap (responseUnder (keySchedule key)) ∧
      t.HoldsScheduleOf key ∧ t.keyValid = true) ∧
  (∀ (s : State) (key key' x : Block), s.phase = .idle →
    ∃ t, runCommands [.loadkey key, .loadkey key', .encrypt x, .decrypt (crypt .enc x (keySchedule key'))] s = .next t ∧
      t.responses = s.responses ++ [.ok 0#64, .ok 0#64, .ok (crypt .enc x (keySchedule key')), .ok x])

/-- Between two LOADKEYs block commands are independent: in either order each has the same response, and `RK` and `KEY_VALID`
end the same (R66). -/
def Obligations.BlockCommandsAreIndependent : Prop :=
  ∀ (s : State) (dir dir' : Dir) (x y : Block), s.Inv → s.phase = .idle →
    ∃ a b t t', runCommands [Instr.block dir x, Instr.block dir' y] s = .next t ∧
      runCommands [Instr.block dir' y, Instr.block dir x] s = .next t' ∧
      t.responses = s.responses ++ [a, b] ∧ t'.responses = s.responses ++ [b, a] ∧
      t.rk = t'.rk ∧ t.keyValid = t'.keyValid

/-! ## The host adapter (44_host_adapter.md) -/

/-- The bit order of packing, and that unpacking undoes it and it undoes unpacking (R166, R167). -/
def Obligations.UnpackInvertsPack : Prop :=
  (∀ (g : List Byte) (i j : Nat), g.length = 8 → i < 8 → j < 8 →
    bitAt (packBytes g) (8 * i + j) = (g.getD i 0#8).getLsbD j) ∧
  (∀ g : List Byte, g.length = 8 → unpackBlock (packBytes g) = g) ∧
  (∀ x : Block, packBytes (unpackBlock x) = x)

/-- The groups of a file are its bytes and, for a last group of length L < 8, the 8 − L fill bytes of value 8 − L; every group
has 8 bytes, and an exact multiple of 8 gets no further one (R168, R169, R170). -/
def Obligations.FileGroupsFillTheLast : Prop :=
  ∀ bytes : List Byte,
    (fileGroups bytes).flatten = bytes ++
      List.replicate ((8 - bytes.length % 8) % 8) (BitVec.ofNat 8 (8 - bytes.length % 8)) ∧
    (∀ g ∈ fileGroups bytes, g.length = 8) ∧
    (bytes.length % 8 = 0 → (fileGroups bytes).flatten = bytes)

/-- The file round trip: encrypting and then decrypting, each on an idle engine in any state, returns the bytes followed by
the fill bytes, which are not removed, and so the bytes exactly when their number is a multiple of 8 (R170, R171, R173).  How
the adapter drives the engine is the model's choice (assumption log 14). -/
def Obligations.FileRoundTrip : Prop :=
  ∀ (key : Block) (bytes : List Byte) (s s' : State), s.phase = .idle → s'.phase = .idle →
    ∃ cipher : List Byte, encryptFile key bytes s = .ok cipher ∧ cipher.length = 8 * ((bytes.length + 7) / 8) ∧
      decryptFile key cipher s' = .ok (bytes ++
        List.replicate ((8 - bytes.length % 8) % 8) (BitVec.ofNat 8 (8 - bytes.length % 8))) ∧
      (bytes.length % 8 = 0 → decryptFile key cipher s' = .ok bytes)

/-- Every group is transformed on its own: the cipher of two files joined, the first of whole groups, is the two ciphers
joined (R168, R172).  How the adapter drives the engine is the model's choice (assumption log 14). -/
def Obligations.FileGroupsAreIndependent : Prop :=
  ∀ (key : Block) (a b ca cb : List Byte) (s : State), s.phase = .idle → a.length % 8 = 0 →
    encryptFile key a s = .ok ca → encryptFile key b s = .ok cb → encryptFile key (a ++ b) s = .ok (ca ++ cb)
end

