-- ==== Sys2Proof/Laws/Bits.lean ====
section
/-! SUPPORT. What each bit-vector operation says bit by bit, in the spec's numbering (R6 to R10, R90, R112). -/

namespace Sys2Proof.Machine

theorem testBit_bitsToNat (n : Nat) (f : Nat → Bool) (i : Nat) :
    (bitsToNat n f).testBit i = (decide (i < n) && f (n - 1 - i)) := by
  induction n generalizing i with
  | zero => simp [bitsToNat]
  | succ n ih =>
    cases i with
    | zero => cases h : f n <;> simp [bitsToNat, h]
    | succ i =>
      have hdiv : (2 * bitsToNat n f + (f n).toNat) / 2 = bitsToNat n f := by
        cases f n <;> (simp; try omega)
      rw [bitsToNat, Nat.testBit_succ, hdiv, ih]
      have : n + 1 - 1 - (i + 1) = n - 1 - i := by omega
      rw [this]
      simp

theorem bitsToNat_congr {n : Nat} {f g : Nat → Bool} (h : ∀ i, i < n → f i = g i) :
    bitsToNat n f = bitsToNat n g := by
  apply Nat.eq_of_testBit_eq
  intro i
  rw [testBit_bitsToNat, testBit_bitsToNat]
  by_cases hi : i < n
  · simp [hi, h (n - 1 - i) (by omega)]
  · simp [hi]

@[simp] theorem bitAt_of_le {n : Nat} (v : BitVec n) {i : Nat} (h : n ≤ i) : bitAt v i = false := by
  simp [bitAt, BitVec.getMsbD, Nat.not_lt.mpr h]

/-- `ofBits` has the bits it was given (R7). -/
theorem bitAt_ofBits (n : Nat) (f : Nat → Bool) (i : Nat) : bitAt (ofBits n f) i = (decide (i < n) && f i) := by
  by_cases h : i < n
  · have h1 : n - 1 - i < n := by omega
    have h2 : n - 1 - (n - 1 - i) = i := by omega
    rw [bitAt, BitVec.getMsbD, ofBits, BitVec.getLsbD_ofNat, testBit_bitsToNat, h2]
    simp [h, h1]
  · simp [bitAt_of_le _ (Nat.not_lt.mp h), h]

/-- Two vectors with the same bits are the same vector. -/
theorem ext_bitAt {n : Nat} {v w : BitVec n} (h : ∀ i, i < n → bitAt v i = bitAt w i) : v = w :=
  BitVec.eq_of_getMsbD_eq h

/-- `int(v) = Σ v.at(i) · 2^(N−1−i)` (R7). -/
theorem toNat_eq_bitsToNat {n : Nat} (v : BitVec n) : v.toNat = bitsToNat n (bitAt v) := by
  apply Nat.eq_of_testBit_eq
  intro i
  rw [testBit_bitsToNat, BitVec.testBit_toNat]
  by_cases h : i < n
  · have h1 : n - 1 - i < n := by omega
    have h2 : n - 1 - (n - 1 - i) = i := by omega
    simp [bitAt, BitVec.getMsbD, h, h1, h2]
  · simp [h, BitVec.getLsbD_of_ge v i (by omega)]

/-- `(a ‖ b).at(i)` (R9). -/
theorem bitAt_append {m n : Nat} (a : BitVec m) (b : BitVec n) (i : Nat) :
    bitAt (a ++ b) i = if i < m then bitAt a i else bitAt b (i - m) := by
  unfold bitAt
  rw [BitVec.getMsbD_append]
  by_cases h : i < m
  · simp [h, Nat.not_le.mpr h]
  · simp [h, Nat.not_lt.mp h]

/-- `(a xor b).at(i)` (R10). -/
@[simp] theorem bitAt_xor {n : Nat} (a b : BitVec n) (i : Nat) : bitAt (a ^^^ b) i = (bitAt a i ^^ bitAt b i) := by
  simp [bitAt]

theorem bitAt_not {n : Nat} (a : BitVec n) (i : Nat) : bitAt (~~~a) i = (decide (i < n) && !bitAt a i) := by
  by_cases h : i < n
  · simp [bitAt, h]
  · simp [bitAt, h]

theorem bitAt_firstBits (k : Nat) {n : Nat} (v : BitVec n) {i : Nat} (h : i < k) :
    bitAt (firstBits k v) i = bitAt v i := by simp [firstBits, bitAt_ofBits, h]

theorem bitAt_lastBits (k : Nat) {n : Nat} (v : BitVec n) {i : Nat} (h : i < k) :
    bitAt (lastBits k v) i = bitAt v (n - k + i) := by simp [lastBits, bitAt_ofBits, h]

theorem bitAt_group6 (v : BitVec 48) (g : Nat) {k : Nat} (h : k < 6) :
    bitAt (group6 v g) k = bitAt v (6 * g + k) := by simp [group6, bitAt_ofBits, h]

/-- `Permute(T, v).at(j) = v.pos(T[j])` (R90). -/
theorem bitAt_permute {m n : Nat} (t : List Nat) (v : BitVec m) {j : Nat} (h : j < n) :
    bitAt (permute n t v) j = bitPos v (t.getD j 0) := by simp [permute, bitAt_ofBits, h]

/-- `rotl_28(v, s).at(j) = v.at((j + s) mod 28)` (R112). -/
theorem bitAt_rotl28 (v : KeyHalf) (s : Nat) {j : Nat} (h : j < 28) :
    bitAt (rotl28 v s) j = bitAt v ((j + s) % 28) := by simp [rotl28, bitAt_ofBits, h]

theorem firstBits_append {m n : Nat} (a : BitVec m) (b : BitVec n) : firstBits m (a ++ b) = a :=
  ext_bitAt fun i hi => by rw [bitAt_firstBits _ _ hi, bitAt_append, if_pos hi]

theorem lastBits_append {m n : Nat} (a : BitVec m) (b : BitVec n) : lastBits n (a ++ b) = b :=
  ext_bitAt fun i hi => by
    rw [bitAt_lastBits _ _ hi, bitAt_append, if_neg (by omega)]
    congr 1
    omega

/-- A vector is its first bits followed by its last bits (R9). -/
theorem firstBits_append_lastBits {m n : Nat} (v : BitVec (m + n)) : firstBits m v ++ lastBits n v = v :=
  ext_bitAt fun i hi => by
    rw [bitAt_append]
    by_cases h : i < m
    · rw [if_pos h, bitAt_firstBits _ _ h]
    · rw [if_neg h, bitAt_lastBits _ _ (by omega)]
      congr 1
      omega

/-- A table whose entries lie in the source's range moves bits only, so it commutes with complement. -/
theorem permute_not {m n : Nat} (t : List Nat) (v : BitVec m)
    (ht : ∀ j, j < n → t.getD j 0 - 1 < m) : permute n t (~~~v) = ~~~permute n t v :=
  ext_bitAt fun j hj => by
    rw [bitAt_permute _ _ hj, bitPos, bitAt_not, bitAt_not, bitAt_permute _ _ hj, bitPos, decide_eq_true hj,
      decide_eq_true (ht j hj)]

/-- Applying one table after another copies through both. -/
theorem bitAt_permute_permute {l m n : Nat} (t u : List Nat) (v : BitVec l) {j : Nat} (hj : j < n)
    (ht : t.getD j 0 - 1 < m) :
    bitAt (permute n t (permute m u v)) j = bitPos v (u.getD (t.getD j 0 - 1) 0) := by
  rw [bitAt_permute _ _ hj, bitPos, bitAt_permute _ _ ht]

theorem firstBits_not {n : Nat} (k : Nat) (v : BitVec n) (h : k ≤ n) : firstBits k (~~~v) = ~~~firstBits k v :=
  ext_bitAt fun i hi => by
    rw [bitAt_firstBits _ _ hi, bitAt_not, bitAt_not, bitAt_firstBits _ _ hi]
    simp [hi, show i < n by omega]

theorem lastBits_not {n : Nat} (k : Nat) (v : BitVec n) (h : k ≤ n) : lastBits k (~~~v) = ~~~lastBits k v :=
  ext_bitAt fun i hi => by
    rw [bitAt_lastBits _ _ hi, bitAt_not, bitAt_not, bitAt_lastBits _ _ hi]
    simp [hi, show n - k + i < n by omega]

theorem rotl28_not (v : KeyHalf) (s : Nat) : rotl28 (~~~v) s = ~~~rotl28 v s :=
  ext_bitAt fun j hj => by
    rw [bitAt_rotl28 _ _ hj, bitAt_not, bitAt_not, bitAt_rotl28 _ _ hj]
    simp [hj, Nat.mod_lt]

/-- Rotations accumulate (R114). -/
theorem rotl28_rotl28 (v : KeyHalf) (s t : Nat) : rotl28 (rotl28 v s) t = rotl28 v (s + t) :=
  ext_bitAt fun j hj => by
    rw [bitAt_rotl28 _ _ hj, bitAt_rotl28 _ _ (Nat.mod_lt _ (by omega)), bitAt_rotl28 _ _ hj]
    congr 1
    omega

theorem append_not {m n : Nat} (a : BitVec m) (b : BitVec n) : ~~~a ++ ~~~b = ~~~(a ++ b) :=
  ext_bitAt fun i hi => by
    rw [bitAt_append, bitAt_not, bitAt_not, bitAt_not, bitAt_append]
    by_cases h : i < m
    · simp [h, hi]
    · simp [h, hi, show i - m < n by omega]

end Sys2Proof.Machine
end

