-- ==== Sys2Proof/Laws/Cipher.lean ====
section
/-! SUPPORT. What the tables and the pure functions of the cipher say, stage by stage. -/

namespace Sys2Proof.Machine

/-! ## Tables -/

theorem ip_in_range : ∀ j, j < 64 → engineTables.ip.getD j 0 - 1 < 64 := by decide
theorem fp_in_range : ∀ j, j < 64 → engineTables.fp.getD j 0 - 1 < 64 := by decide
theorem e_in_range : ∀ j, j < 48 → engineTables.e.getD j 0 - 1 < 32 := by decide
theorem p_in_range : ∀ j, j < 32 → engineTables.p.getD j 0 - 1 < 32 := by decide
theorem pc1_in_range : ∀ j, j < 56 → engineTables.pc1.getD j 0 - 1 < 64 := by decide
theorem pc2_in_range : ∀ j, j < 48 → engineTables.pc2.getD j 0 - 1 < 56 := by decide

/-- `IP[FP[j] − 1] = j + 1` (R92). -/
theorem ip_at_fp : ∀ j, j < 64 → engineTables.ip.getD (engineTables.fp.getD j 0 - 1) 0 = j + 1 := by decide

/-- `FP[IP[j] − 1] = j + 1` (R92). -/
theorem fp_at_ip : ∀ j, j < 64 → engineTables.fp.getD (engineTables.ip.getD j 0 - 1) 0 = j + 1 := by decide

/-! ## The key schedule -/

theorem scheduleKey_keySchedule (key : Block) (i : RoundIndex) :
    scheduleKey (keySchedule key) i = roundKeyOf key i.toNat := by
  simp [scheduleKey, keySchedule]

theorem keyHalvesAfter_succ (key : Block) (n : Nat) :
    keyHalvesAfter key (n + 1) = rotateHalves (keyHalvesAfter key n) (BitVec.ofNat 4 n) := rfl

/-- The halves after the last round, in terms of those before it. -/
theorem keyHalvesAfter_last (key : Block) : keyHalvesAfter key 16 = rotateHalves (keyHalvesAfter key 15) 15#4 :=
  keyHalvesAfter_succ key 15

theorem scheduleKey_ext {ks ks' : Schedule} (h : ∀ i, scheduleKey ks i = scheduleKey ks' i) : ks = ks' :=
  Vector.ext fun i hi => h (BitVec.ofFin ⟨i, hi⟩)

theorem keySchedule_congr {key key' : Block} (h : initialKeyHalves key = initialKeyHalves key') :
    keySchedule key = keySchedule key' := by
  have hn : ∀ n, keyHalvesAfter key n = keyHalvesAfter key' n := by
    intro n
    induction n with
    | zero => exact h
    | succ n ih => rw [keyHalvesAfter, keyHalvesAfter, ih]
  simp [keySchedule, roundKeyOf, hn]

/-- Both halves of a rotation state complemented. -/
def KeyHalves.compl (h : KeyHalves) : KeyHalves := { c := ~~~h.c, d := ~~~h.d }

theorem initialKeyHalves_not (key : Block) : initialKeyHalves (~~~key) = (initialKeyHalves key).compl := by
  simp [initialKeyHalves, KeyHalves.compl, permute_not _ _ pc1_in_range, firstBits_not, lastBits_not]

theorem rotateHalves_compl (h : KeyHalves) (i : RoundIndex) : rotateHalves h.compl i = (rotateHalves h i).compl := by
  simp [rotateHalves, KeyHalves.compl, rotl28_not]

theorem selectRoundKey_compl (h : KeyHalves) : selectRoundKey h.compl = ~~~selectRoundKey h := by
  rw [selectRoundKey, KeyHalves.compl, append_not]
  exact permute_not _ _ pc2_in_range

/-! ## The round function and the block transform -/

theorem expand_not (s : HalfBlock) : expand (~~~s) = ~~~expand s := permute_not _ _ e_in_range

/-- Both halves of a block complemented. -/
def BlockHalves.compl (h : BlockHalves) : BlockHalves := { l := ~~~h.l, r := ~~~h.r }

theorem initialBlockHalves_not (x : Block) : initialBlockHalves (~~~x) = (initialBlockHalves x).compl := by
  simp [initialBlockHalves, BlockHalves.compl, permute_not _ _ ip_in_range, firstBits_not, lastBits_not]

theorem finalBlock_compl (h : BlockHalves) : finalBlock h.compl = ~~~finalBlock h := by
  rw [finalBlock, BlockHalves.compl, append_not]
  exact permute_not _ _ fp_in_range

/-- `L` and `R` exchanged: what the final swap and the mirror image of a round are about (R143). -/
def BlockHalves.swap (h : BlockHalves) : BlockHalves := { l := h.r, r := h.l }

@[simp] theorem BlockHalves.swap_swap (h : BlockHalves) : h.swap.swap = h := rfl

/-- A round run on the exchanged halves with the same key undoes the round, whatever `F` computes (R148). -/
theorem feistelRound_swap (h : BlockHalves) (k : RoundKey) :
    feistelRound (feistelRound h k).swap k = h.swap := by
  simp [feistelRound, BlockHalves.swap]

theorem blockHalvesAfter_succ (dir : Dir) (x : Block) (ks : Schedule) (n : Nat) :
    blockHalvesAfter dir x ks (n + 1) =
      feistelRound (blockHalvesAfter dir x ks n) (scheduleKey ks (keyIndex dir (BitVec.ofNat 4 n))) := rfl

/-- The halves after the last round, in terms of those before it. -/
theorem blockHalvesAfter_last (dir : Dir) (x : Block) (ks : Schedule) :
    blockHalvesAfter dir x ks 16 = feistelRound (blockHalvesAfter dir x ks 15) (scheduleKey ks (keyIndex dir 15#4)) :=
  blockHalvesAfter_succ dir x ks 15

theorem keyIndex_keyIndex (dir : Dir) (i : RoundIndex) : keyIndex dir (keyIndex dir i) = i := by
  cases dir
  · rfl
  · revert i
    decide

end Sys2Proof.Machine
end

