-- ==== Sys2Proof/Laws/State.lean ====
section
/-! SUPPORT. One lemma per field per state update, each true by definition, so that no proof unfolds an update.  The
fields a reset event leaves free (Config.lean) have none. -/

namespace Sys2Proof.Machine

/-- The same engine with other inputs to come and another response presented: what `nextPoint` and `drive` do. -/
def State.setPorts (s : State) (is : List PortInput) (o : Option Response) : State := { s with inputs := is, rsp := o }

theorem State.nextPoint_eq (s : State) : s.nextPoint = s.setPorts (s.inputs.drop 1) none := rfl

@[simp] theorem State.writeRoundKey_rk (s : State) (i : RoundIndex) (v : RoundKey) : (s.writeRoundKey i v).rk = s.rk.set i.toNat (some v) i.isLt := rfl
@[simp] theorem State.writeRoundKey_keyValid (s : State) (i : RoundIndex) (v : RoundKey) : (s.writeRoundKey i v).keyValid = s.keyValid := rfl
@[simp] theorem State.writeRoundKey_phase (s : State) (i : RoundIndex) (v : RoundKey) : (s.writeRoundKey i v).phase = s.phase := rfl
@[simp] theorem State.writeRoundKey_rnd (s : State) (i : RoundIndex) (v : RoundKey) : (s.writeRoundKey i v).rnd = s.rnd := rfl
@[simp] theorem State.writeRoundKey_dir (s : State) (i : RoundIndex) (v : RoundKey) : (s.writeRoundKey i v).dir = s.dir := rfl
@[simp] theorem State.writeRoundKey_l (s : State) (i : RoundIndex) (v : RoundKey) : (s.writeRoundKey i v).l = s.l := rfl
@[simp] theorem State.writeRoundKey_r (s : State) (i : RoundIndex) (v : RoundKey) : (s.writeRoundKey i v).r = s.r := rfl
@[simp] theorem State.writeRoundKey_c (s : State) (i : RoundIndex) (v : RoundKey) : (s.writeRoundKey i v).c = s.c := rfl
@[simp] theorem State.writeRoundKey_d (s : State) (i : RoundIndex) (v : RoundKey) : (s.writeRoundKey i v).d = s.d := rfl
@[simp] theorem State.writeRoundKey_rsp (s : State) (i : RoundIndex) (v : RoundKey) : (s.writeRoundKey i v).rsp = s.rsp := rfl
@[simp] theorem State.writeRoundKey_responses (s : State) (i : RoundIndex) (v : RoundKey) : (s.writeRoundKey i v).responses = s.responses := rfl
@[simp] theorem State.writeRoundKey_inputs (s : State) (i : RoundIndex) (v : RoundKey) : (s.writeRoundKey i v).inputs = s.inputs := rfl
@[simp] theorem State.writeRoundKey_resetCount (s : State) (i : RoundIndex) (v : RoundKey) : (s.writeRoundKey i v).resetCount = s.resetCount := rfl

@[simp] theorem State.writeSchedule_rk (s : State) (ks : Schedule) : (s.writeSchedule ks).rk = ks.map some := rfl
@[simp] theorem State.writeSchedule_keyValid (s : State) (ks : Schedule) : (s.writeSchedule ks).keyValid = s.keyValid := rfl
@[simp] theorem State.writeSchedule_phase (s : State) (ks : Schedule) : (s.writeSchedule ks).phase = s.phase := rfl
@[simp] theorem State.writeSchedule_rnd (s : State) (ks : Schedule) : (s.writeSchedule ks).rnd = s.rnd := rfl
@[simp] theorem State.writeSchedule_dir (s : State) (ks : Schedule) : (s.writeSchedule ks).dir = s.dir := rfl
@[simp] theorem State.writeSchedule_l (s : State) (ks : Schedule) : (s.writeSchedule ks).l = s.l := rfl
@[simp] theorem State.writeSchedule_r (s : State) (ks : Schedule) : (s.writeSchedule ks).r = s.r := rfl
@[simp] theorem State.writeSchedule_c (s : State) (ks : Schedule) : (s.writeSchedule ks).c = s.c := rfl
@[simp] theorem State.writeSchedule_d (s : State) (ks : Schedule) : (s.writeSchedule ks).d = s.d := rfl
@[simp] theorem State.writeSchedule_rsp (s : State) (ks : Schedule) : (s.writeSchedule ks).rsp = s.rsp := rfl
@[simp] theorem State.writeSchedule_responses (s : State) (ks : Schedule) : (s.writeSchedule ks).responses = s.responses := rfl
@[simp] theorem State.writeSchedule_inputs (s : State) (ks : Schedule) : (s.writeSchedule ks).inputs = s.inputs := rfl
@[simp] theorem State.writeSchedule_resetCount (s : State) (ks : Schedule) : (s.writeSchedule ks).resetCount = s.resetCount := rfl

@[simp] theorem State.setKeyValid_rk (s : State) (v : Bool) : (s.setKeyValid v).rk = s.rk := rfl
@[simp] theorem State.setKeyValid_keyValid (s : State) (v : Bool) : (s.setKeyValid v).keyValid = v := rfl
@[simp] theorem State.setKeyValid_phase (s : State) (v : Bool) : (s.setKeyValid v).phase = s.phase := rfl
@[simp] theorem State.setKeyValid_rnd (s : State) (v : Bool) : (s.setKeyValid v).rnd = s.rnd := rfl
@[simp] theorem State.setKeyValid_dir (s : State) (v : Bool) : (s.setKeyValid v).dir = s.dir := rfl
@[simp] theorem State.setKeyValid_l (s : State) (v : Bool) : (s.setKeyValid v).l = s.l := rfl
@[simp] theorem State.setKeyValid_r (s : State) (v : Bool) : (s.setKeyValid v).r = s.r := rfl
@[simp] theorem State.setKeyValid_c (s : State) (v : Bool) : (s.setKeyValid v).c = s.c := rfl
@[simp] theorem State.setKeyValid_d (s : State) (v : Bool) : (s.setKeyValid v).d = s.d := rfl
@[simp] theorem State.setKeyValid_rsp (s : State) (v : Bool) : (s.setKeyValid v).rsp = s.rsp := rfl
@[simp] theorem State.setKeyValid_responses (s : State) (v : Bool) : (s.setKeyValid v).responses = s.responses := rfl
@[simp] theorem State.setKeyValid_inputs (s : State) (v : Bool) : (s.setKeyValid v).inputs = s.inputs := rfl
@[simp] theorem State.setKeyValid_resetCount (s : State) (v : Bool) : (s.setKeyValid v).resetCount = s.resetCount := rfl

@[simp] theorem State.markKeyLoaded_rk (s : State) : (s.markKeyLoaded).rk = s.rk := rfl
@[simp] theorem State.markKeyLoaded_keyValid (s : State) : (s.markKeyLoaded).keyValid = true := rfl
@[simp] theorem State.markKeyLoaded_phase (s : State) : (s.markKeyLoaded).phase = s.phase := rfl
@[simp] theorem State.markKeyLoaded_rnd (s : State) : (s.markKeyLoaded).rnd = s.rnd := rfl
@[simp] theorem State.markKeyLoaded_dir (s : State) : (s.markKeyLoaded).dir = s.dir := rfl
@[simp] theorem State.markKeyLoaded_l (s : State) : (s.markKeyLoaded).l = s.l := rfl
@[simp] theorem State.markKeyLoaded_r (s : State) : (s.markKeyLoaded).r = s.r := rfl
@[simp] theorem State.markKeyLoaded_c (s : State) : (s.markKeyLoaded).c = s.c := rfl
@[simp] theorem State.markKeyLoaded_d (s : State) : (s.markKeyLoaded).d = s.d := rfl
@[simp] theorem State.markKeyLoaded_rsp (s : State) : (s.markKeyLoaded).rsp = s.rsp := rfl
@[simp] theorem State.markKeyLoaded_responses (s : State) : (s.markKeyLoaded).responses = s.responses := rfl
@[simp] theorem State.markKeyLoaded_inputs (s : State) : (s.markKeyLoaded).inputs = s.inputs := rfl
@[simp] theorem State.markKeyLoaded_resetCount (s : State) : (s.markKeyLoaded).resetCount = s.resetCount := rfl

@[simp] theorem State.setPhase_rk (s : State) (p : Phase) : (s.setPhase p).rk = s.rk := rfl
@[simp] theorem State.setPhase_keyValid (s : State) (p : Phase) : (s.setPhase p).keyValid = s.keyValid := rfl
@[simp] theorem State.setPhase_phase (s : State) (p : Phase) : (s.setPhase p).phase = p := rfl
@[simp] theorem State.setPhase_rnd (s : State) (p : Phase) : (s.setPhase p).rnd = s.rnd := rfl
@[simp] theorem State.setPhase_dir (s : State) (p : Phase) : (s.setPhase p).dir = s.dir := rfl
@[simp] theorem State.setPhase_l (s : State) (p : Phase) : (s.setPhase p).l = s.l := rfl
@[simp] theorem State.setPhase_r (s : State) (p : Phase) : (s.setPhase p).r = s.r := rfl
@[simp] theorem State.setPhase_c (s : State) (p : Phase) : (s.setPhase p).c = s.c := rfl
@[simp] theorem State.setPhase_d (s : State) (p : Phase) : (s.setPhase p).d = s.d := rfl
@[simp] theorem State.setPhase_rsp (s : State) (p : Phase) : (s.setPhase p).rsp = s.rsp := rfl
@[simp] theorem State.setPhase_responses (s : State) (p : Phase) : (s.setPhase p).responses = s.responses := rfl
@[simp] theorem State.setPhase_inputs (s : State) (p : Phase) : (s.setPhase p).inputs = s.inputs := rfl
@[simp] theorem State.setPhase_resetCount (s : State) (p : Phase) : (s.setPhase p).resetCount = s.resetCount := rfl

@[simp] theorem State.setRound_rk (s : State) (i : RoundIndex) : (s.setRound i).rk = s.rk := rfl
@[simp] theorem State.setRound_keyValid (s : State) (i : RoundIndex) : (s.setRound i).keyValid = s.keyValid := rfl
@[simp] theorem State.setRound_phase (s : State) (i : RoundIndex) : (s.setRound i).phase = s.phase := rfl
@[simp] theorem State.setRound_rnd (s : State) (i : RoundIndex) : (s.setRound i).rnd = i := rfl
@[simp] theorem State.setRound_dir (s : State) (i : RoundIndex) : (s.setRound i).dir = s.dir := rfl
@[simp] theorem State.setRound_l (s : State) (i : RoundIndex) : (s.setRound i).l = s.l := rfl
@[simp] theorem State.setRound_r (s : State) (i : RoundIndex) : (s.setRound i).r = s.r := rfl
@[simp] theorem State.setRound_c (s : State) (i : RoundIndex) : (s.setRound i).c = s.c := rfl
@[simp] theorem State.setRound_d (s : State) (i : RoundIndex) : (s.setRound i).d = s.d := rfl
@[simp] theorem State.setRound_rsp (s : State) (i : RoundIndex) : (s.setRound i).rsp = s.rsp := rfl
@[simp] theorem State.setRound_responses (s : State) (i : RoundIndex) : (s.setRound i).responses = s.responses := rfl
@[simp] theorem State.setRound_inputs (s : State) (i : RoundIndex) : (s.setRound i).inputs = s.inputs := rfl
@[simp] theorem State.setRound_resetCount (s : State) (i : RoundIndex) : (s.setRound i).resetCount = s.resetCount := rfl

@[simp] theorem State.setDir_rk (s : State) (dir : Dir) : (s.setDir dir).rk = s.rk := rfl
@[simp] theorem State.setDir_keyValid (s : State) (dir : Dir) : (s.setDir dir).keyValid = s.keyValid := rfl
@[simp] theorem State.setDir_phase (s : State) (dir : Dir) : (s.setDir dir).phase = s.phase := rfl
@[simp] theorem State.setDir_rnd (s : State) (dir : Dir) : (s.setDir dir).rnd = s.rnd := rfl
@[simp] theorem State.setDir_dir (s : State) (dir : Dir) : (s.setDir dir).dir = dir := rfl
@[simp] theorem State.setDir_l (s : State) (dir : Dir) : (s.setDir dir).l = s.l := rfl
@[simp] theorem State.setDir_r (s : State) (dir : Dir) : (s.setDir dir).r = s.r := rfl
@[simp] theorem State.setDir_c (s : State) (dir : Dir) : (s.setDir dir).c = s.c := rfl
@[simp] theorem State.setDir_d (s : State) (dir : Dir) : (s.setDir dir).d = s.d := rfl
@[simp] theorem State.setDir_rsp (s : State) (dir : Dir) : (s.setDir dir).rsp = s.rsp := rfl
@[simp] theorem State.setDir_responses (s : State) (dir : Dir) : (s.setDir dir).responses = s.responses := rfl
@[simp] theorem State.setDir_inputs (s : State) (dir : Dir) : (s.setDir dir).inputs = s.inputs := rfl
@[simp] theorem State.setDir_resetCount (s : State) (dir : Dir) : (s.setDir dir).resetCount = s.resetCount := rfl

@[simp] theorem State.setBlockHalves_rk (s : State) (h : BlockHalves) : (s.setBlockHalves h).rk = s.rk := rfl
@[simp] theorem State.setBlockHalves_keyValid (s : State) (h : BlockHalves) : (s.setBlockHalves h).keyValid = s.keyValid := rfl
@[simp] theorem State.setBlockHalves_phase (s : State) (h : BlockHalves) : (s.setBlockHalves h).phase = s.phase := rfl
@[simp] theorem State.setBlockHalves_rnd (s : State) (h : BlockHalves) : (s.setBlockHalves h).rnd = s.rnd := rfl
@[simp] theorem State.setBlockHalves_dir (s : State) (h : BlockHalves) : (s.setBlockHalves h).dir = s.dir := rfl
@[simp] theorem State.setBlockHalves_l (s : State) (h : BlockHalves) : (s.setBlockHalves h).l = h.l := rfl
@[simp] theorem State.setBlockHalves_r (s : State) (h : BlockHalves) : (s.setBlockHalves h).r = h.r := rfl
@[simp] theorem State.setBlockHalves_c (s : State) (h : BlockHalves) : (s.setBlockHalves h).c = s.c := rfl
@[simp] theorem State.setBlockHalves_d (s : State) (h : BlockHalves) : (s.setBlockHalves h).d = s.d := rfl
@[simp] theorem State.setBlockHalves_rsp (s : State) (h : BlockHalves) : (s.setBlockHalves h).rsp = s.rsp := rfl
@[simp] theorem State.setBlockHalves_responses (s : State) (h : BlockHalves) : (s.setBlockHalves h).responses = s.responses := rfl
@[simp] theorem State.setBlockHalves_inputs (s : State) (h : BlockHalves) : (s.setBlockHalves h).inputs = s.inputs := rfl
@[simp] theorem State.setBlockHalves_resetCount (s : State) (h : BlockHalves) : (s.setBlockHalves h).resetCount = s.resetCount := rfl

@[simp] theorem State.setKeyHalves_rk (s : State) (h : KeyHalves) : (s.setKeyHalves h).rk = s.rk := rfl
@[simp] theorem State.setKeyHalves_keyValid (s : State) (h : KeyHalves) : (s.setKeyHalves h).keyValid = s.keyValid := rfl
@[simp] theorem State.setKeyHalves_phase (s : State) (h : KeyHalves) : (s.setKeyHalves h).phase = s.phase := rfl
@[simp] theorem State.setKeyHalves_rnd (s : State) (h : KeyHalves) : (s.setKeyHalves h).rnd = s.rnd := rfl
@[simp] theorem State.setKeyHalves_dir (s : State) (h : KeyHalves) : (s.setKeyHalves h).dir = s.dir := rfl
@[simp] theorem State.setKeyHalves_l (s : State) (h : KeyHalves) : (s.setKeyHalves h).l = s.l := rfl
@[simp] theorem State.setKeyHalves_r (s : State) (h : KeyHalves) : (s.setKeyHalves h).r = s.r := rfl
@[simp] theorem State.setKeyHalves_c (s : State) (h : KeyHalves) : (s.setKeyHalves h).c = h.c := rfl
@[simp] theorem State.setKeyHalves_d (s : State) (h : KeyHalves) : (s.setKeyHalves h).d = h.d := rfl
@[simp] theorem State.setKeyHalves_rsp (s : State) (h : KeyHalves) : (s.setKeyHalves h).rsp = s.rsp := rfl
@[simp] theorem State.setKeyHalves_responses (s : State) (h : KeyHalves) : (s.setKeyHalves h).responses = s.responses := rfl
@[simp] theorem State.setKeyHalves_inputs (s : State) (h : KeyHalves) : (s.setKeyHalves h).inputs = s.inputs := rfl
@[simp] theorem State.setKeyHalves_resetCount (s : State) (h : KeyHalves) : (s.setKeyHalves h).resetCount = s.resetCount := rfl

@[simp] theorem State.respond_rk (s : State) (a : Response) : (s.respond a).rk = s.rk := rfl
@[simp] theorem State.respond_keyValid (s : State) (a : Response) : (s.respond a).keyValid = s.keyValid := rfl
@[simp] theorem State.respond_phase (s : State) (a : Response) : (s.respond a).phase = s.phase := rfl
@[simp] theorem State.respond_rnd (s : State) (a : Response) : (s.respond a).rnd = s.rnd := rfl
@[simp] theorem State.respond_dir (s : State) (a : Response) : (s.respond a).dir = s.dir := rfl
@[simp] theorem State.respond_l (s : State) (a : Response) : (s.respond a).l = s.l := rfl
@[simp] theorem State.respond_r (s : State) (a : Response) : (s.respond a).r = s.r := rfl
@[simp] theorem State.respond_c (s : State) (a : Response) : (s.respond a).c = s.c := rfl
@[simp] theorem State.respond_d (s : State) (a : Response) : (s.respond a).d = s.d := rfl
@[simp] theorem State.respond_rsp (s : State) (a : Response) : (s.respond a).rsp = some a := rfl
@[simp] theorem State.respond_responses (s : State) (a : Response) : (s.respond a).responses = s.responses ++ [a] := rfl
@[simp] theorem State.respond_inputs (s : State) (a : Response) : (s.respond a).inputs = s.inputs := rfl
@[simp] theorem State.respond_resetCount (s : State) (a : Response) : (s.respond a).resetCount = s.resetCount := rfl

@[simp] theorem State.nextPoint_rk (s : State) : (s.nextPoint).rk = s.rk := rfl
@[simp] theorem State.nextPoint_keyValid (s : State) : (s.nextPoint).keyValid = s.keyValid := rfl
@[simp] theorem State.nextPoint_phase (s : State) : (s.nextPoint).phase = s.phase := rfl
@[simp] theorem State.nextPoint_rnd (s : State) : (s.nextPoint).rnd = s.rnd := rfl
@[simp] theorem State.nextPoint_dir (s : State) : (s.nextPoint).dir = s.dir := rfl
@[simp] theorem State.nextPoint_l (s : State) : (s.nextPoint).l = s.l := rfl
@[simp] theorem State.nextPoint_r (s : State) : (s.nextPoint).r = s.r := rfl
@[simp] theorem State.nextPoint_c (s : State) : (s.nextPoint).c = s.c := rfl
@[simp] theorem State.nextPoint_d (s : State) : (s.nextPoint).d = s.d := rfl
@[simp] theorem State.nextPoint_rsp (s : State) : (s.nextPoint).rsp = none := rfl
@[simp] theorem State.nextPoint_responses (s : State) : (s.nextPoint).responses = s.responses := rfl
@[simp] theorem State.nextPoint_inputs (s : State) : (s.nextPoint).inputs = s.inputs.drop 1 := rfl
@[simp] theorem State.nextPoint_resetCount (s : State) : (s.nextPoint).resetCount = s.resetCount := rfl

@[simp] theorem State.drive_rk (s : State) (is : List Instr) : (s.drive is).rk = s.rk := rfl
@[simp] theorem State.drive_keyValid (s : State) (is : List Instr) : (s.drive is).keyValid = s.keyValid := rfl
@[simp] theorem State.drive_phase (s : State) (is : List Instr) : (s.drive is).phase = s.phase := rfl
@[simp] theorem State.drive_rnd (s : State) (is : List Instr) : (s.drive is).rnd = s.rnd := rfl
@[simp] theorem State.drive_dir (s : State) (is : List Instr) : (s.drive is).dir = s.dir := rfl
@[simp] theorem State.drive_l (s : State) (is : List Instr) : (s.drive is).l = s.l := rfl
@[simp] theorem State.drive_r (s : State) (is : List Instr) : (s.drive is).r = s.r := rfl
@[simp] theorem State.drive_c (s : State) (is : List Instr) : (s.drive is).c = s.c := rfl
@[simp] theorem State.drive_d (s : State) (is : List Instr) : (s.drive is).d = s.d := rfl
@[simp] theorem State.drive_rsp (s : State) (is : List Instr) : (s.drive is).rsp = s.rsp := rfl
@[simp] theorem State.drive_responses (s : State) (is : List Instr) : (s.drive is).responses = s.responses := rfl
@[simp] theorem State.drive_inputs (s : State) (is : List Instr) : (s.drive is).inputs = is.map fun i => PortInput.present (encode i) := rfl
@[simp] theorem State.drive_resetCount (s : State) (is : List Instr) : (s.drive is).resetCount = s.resetCount := rfl

@[simp] theorem State.setPorts_rk (s : State) (is : List PortInput) (o : Option Response) : (s.setPorts is o).rk = s.rk := rfl
@[simp] theorem State.setPorts_keyValid (s : State) (is : List PortInput) (o : Option Response) : (s.setPorts is o).keyValid = s.keyValid := rfl
@[simp] theorem State.setPorts_phase (s : State) (is : List PortInput) (o : Option Response) : (s.setPorts is o).phase = s.phase := rfl
@[simp] theorem State.setPorts_rnd (s : State) (is : List PortInput) (o : Option Response) : (s.setPorts is o).rnd = s.rnd := rfl
@[simp] theorem State.setPorts_dir (s : State) (is : List PortInput) (o : Option Response) : (s.setPorts is o).dir = s.dir := rfl
@[simp] theorem State.setPorts_l (s : State) (is : List PortInput) (o : Option Response) : (s.setPorts is o).l = s.l := rfl
@[simp] theorem State.setPorts_r (s : State) (is : List PortInput) (o : Option Response) : (s.setPorts is o).r = s.r := rfl
@[simp] theorem State.setPorts_c (s : State) (is : List PortInput) (o : Option Response) : (s.setPorts is o).c = s.c := rfl
@[simp] theorem State.setPorts_d (s : State) (is : List PortInput) (o : Option Response) : (s.setPorts is o).d = s.d := rfl
@[simp] theorem State.setPorts_rsp (s : State) (is : List PortInput) (o : Option Response) : (s.setPorts is o).rsp = o := rfl
@[simp] theorem State.setPorts_responses (s : State) (is : List PortInput) (o : Option Response) : (s.setPorts is o).responses = s.responses := rfl
@[simp] theorem State.setPorts_inputs (s : State) (is : List PortInput) (o : Option Response) : (s.setPorts is o).inputs = is := rfl
@[simp] theorem State.setPorts_resetCount (s : State) (is : List PortInput) (o : Option Response) : (s.setPorts is o).resetCount = s.resetCount := rfl

@[simp] theorem State.resetEvent_rk (s : State) : (s.resetEvent).rk = Vector.replicate 16 none := rfl
@[simp] theorem State.resetEvent_keyValid (s : State) : (s.resetEvent).keyValid = false := rfl
@[simp] theorem State.resetEvent_phase (s : State) : (s.resetEvent).phase = .idle := rfl
@[simp] theorem State.resetEvent_rsp (s : State) : (s.resetEvent).rsp = none := rfl
@[simp] theorem State.resetEvent_responses (s : State) : (s.resetEvent).responses = s.responses := rfl
@[simp] theorem State.resetEvent_inputs (s : State) : (s.resetEvent).inputs = s.inputs := rfl
@[simp] theorem State.resetEvent_resetCount (s : State) : (s.resetEvent).resetCount = s.resetCount + 1 := rfl

@[simp] theorem State.setKeyHalves_keyHalves (s : State) (h : KeyHalves) : (s.setKeyHalves h).keyHalves = h := rfl
@[simp] theorem State.setBlockHalves_blockHalves (s : State) (h : BlockHalves) : (s.setBlockHalves h).blockHalves = h := rfl

/-- The round keys read one by one determine the file. -/
theorem rk_ext {s t : State} (h : ∀ i, s.rkAt i = t.rkAt i) : s.rk = t.rk :=
  Vector.ext fun i hi => h (BitVec.ofFin ⟨i, hi⟩)

theorem State.rkAt_congr {s t : State} (h : s.rk = t.rk) (i : RoundIndex) : s.rkAt i = t.rkAt i := by
  simp [State.rkAt, h]

theorem State.writeRoundKey_rkAt (s : State) (i j : RoundIndex) (v : RoundKey) :
    (s.writeRoundKey i v).rkAt j = if i = j then some v else s.rkAt j := by
  simp [State.rkAt, State.writeRoundKey, Vector.getElem_set, BitVec.toNat_inj]

theorem State.rkAt_of_written {s : State} {ks : Schedule} (h : s.rk = ks.map some) (i : RoundIndex) :
    s.rkAt i = some (scheduleKey ks i) := by
  simp [State.rkAt, scheduleKey, h]

theorem State.written_of_rkAt {s : State} {ks : Schedule} (h : ∀ i, s.rkAt i = some (scheduleKey ks i)) :
    s.rk = ks.map some :=
  rk_ext (t := s.writeSchedule ks) fun i => by rw [h, State.rkAt_of_written rfl]

end Sys2Proof.Machine
end

