-- ==== Sys2Proof/Laws/Ops.lean ====
section
/-! SUPPORT. Everything each shared operation can do, once (reading round keys, the KEY_VALID test, one point of the
ports, a run of points). -/

namespace Sys2Proof.Machine

/-! ## Reading the round keys -/

theorem readRoundKey_of_some {s : State} {i : RoundIndex} {k : RoundKey} (h : s.rkAt i = some k) :
    s.readRoundKey i = .ok k := by simp [State.readRoundKey, h]

theorem readRoundKey_of_none {s : State} {i : RoundIndex} (h : s.rkAt i = none) :
    s.readRoundKey i = .error (.unwrittenRoundKey i) := by simp [State.readRoundKey, h]

theorem readRoundKey_of_written {s : State} {ks : Schedule} (h : s.rk = ks.map some) (i : RoundIndex) :
    s.readRoundKey i = .ok (scheduleKey ks i) := by
  exact readRoundKey_of_some (State.rkAt_of_written h i)

/-- A written file reads as the schedule it holds, in either order. -/
theorem readSchedule_of_written {s : State} {ks : Schedule} (h : s.rk = ks.map some) (dir : Dir) :
    s.readSchedule dir = .ok ks := by
  have hf : (keyReadOrder dir).find? (fun i => (s.rkAt i).isNone) = none := by
    rw [List.find?_eq_none]
    intro i _
    simp [State.rkAt_of_written h]
  have hm : s.rk.map (fun k => k.getD 0#48) = ks := by
    rw [h]
    ext i hi
    simp
  simp [State.readSchedule, hf, hm]

/-- A file that reads whole is a written one. -/
theorem written_of_readSchedule {s : State} {dir : Dir} {ks : Schedule} (h : s.readSchedule dir = .ok ks) :
    s.rk = ks.map some := by
  unfold State.readSchedule at h
  split at h
  · simp at h
  · next hf =>
    have hsome : ∀ i : RoundIndex, (s.rkAt i).isSome = true := by
      intro i
      rw [List.find?_eq_none] at hf
      have hi := hf i (by
        rw [keyReadOrder, List.mem_map]
        exact ⟨(keyIndex dir i).toNat, by simp [(keyIndex dir i).isLt], by simp [keyIndex_keyIndex]⟩)
      simpa [Option.isNone_iff_eq_none, Option.isSome_iff_ne_none] using hi
    have hk : ks = s.rk.map (fun k => k.getD 0#48) := by simpa using h.symm
    rw [hk]
    ext i hi
    have := hsome (BitVec.ofFin ⟨i, hi⟩)
    simp [State.rkAt] at this ⊢
    cases hr : s.rk[i] with
    | none => simp [hr] at this
    | some k => simp

/-! ## The KEY_VALID test -/

theorem requireKey_of_true {s : State} (h : s.keyValid = true) (body : State → StepResult) :
    s.requireKey body = body s := by simp [State.requireKey, h]

theorem requireKey_of_false {s : State} (h : s.keyValid = false) (body : State → StepResult) :
    s.requireKey body = .next (s.respond .keyNotLoaded) := by simp [State.requireKey, h, raiseKeyNotLoaded]

/-- A block operation with no key loaded raises the error. -/
theorem blockOperation_of_no_key {s : State} (h : s.keyValid = false) (dir : Dir) (x : Block) :
    blockOperation dir x s = .next (s.respond .keyNotLoaded) := requireKey_of_false h _

/-- A block operation over a written file. -/
theorem blockOperation_of_written {s : State} {ks : Schedule} (hv : s.keyValid = true) (h : s.rk = ks.map some)
    (dir : Dir) (x : Block) :
    blockOperation dir x s = .next ((((s.setBlockHalves (blockHalvesAfter dir x ks 16)).setRound 15#4).setDir dir).respond
      (.ok (crypt dir x ks))) := by
  simp [blockOperation, requireKey_of_true hv, readSchedule_of_written h, operandVector, resultField]

/-- A block operation that goes on either raised the error or had a written file to work on. -/
theorem blockOperation_next {dir : Dir} {x : Block} {s t : State} (h : blockOperation dir x s = .next t) :
    (s.keyValid = false ∧ t = s.respond .keyNotLoaded) ∨
    (s.keyValid = true ∧ ∃ ks : Schedule, s.rk = ks.map some ∧
      t = (((s.setBlockHalves (blockHalvesAfter dir x ks 16)).setRound 15#4).setDir dir).respond (.ok (crypt dir x ks))) := by
  cases hv : s.keyValid with
  | false =>
    rw [blockOperation, requireKey_of_false hv] at h
    exact .inl ⟨rfl, (Host.Outcome.next.inj h).symm⟩
  | true =>
    cases hr : s.readSchedule dir with
    | error f => simp [blockOperation, requireKey_of_true hv, hr] at h
    | ok ks =>
      have hw := written_of_readSchedule hr
      rw [blockOperation_of_written hv hw] at h
      exact .inr ⟨rfl, ks, hw, (Host.Outcome.next.inj h).symm⟩

/-- The three kinds of command. -/
theorem instr_cases (i : Instr) : (∃ d, i = .nop d) ∨ (∃ key, i = .loadkey key) ∨ ∃ dir x, i = Instr.block dir x := by
  cases i with
  | nop d => exact .inl ⟨d, rfl⟩
  | loadkey key => exact .inr (.inl ⟨key, rfl⟩)
  | encrypt x => exact .inr (.inr ⟨.enc, x, rfl⟩)
  | decrypt x => exact .inr (.inr ⟨.dec, x, rfl⟩)

theorem exec_block (dir : Dir) (x : Block) (s : State) : exec (Instr.block dir x) s = blockOperation dir x s := by
  cases dir <;> rfl

theorem acceptCommand_block (dir : Dir) (x : Block) (s : State) :
    acceptCommand (Instr.block dir x) s = acceptBlock dir x s := by
  cases dir <;> rfl

@[simp] theorem responseUnder_nop (ks : Schedule) (d : Block) : responseUnder ks (.nop d) = none := rfl

@[simp] theorem responseUnder_block (ks : Schedule) (dir : Dir) (x : Block) :
    responseUnder ks (Instr.block dir x) = some (.ok (crypt dir x ks)) := by
  cases dir <;> rfl

/-! ## One point of the ports -/

theorem atPoint_of_rst {s : State} (h : s.portInput.rst = true) (accept : Instr → State → StepResult) :
    atPoint accept s = .next s.nextPoint.resetEvent := by simp [atPoint, h]

theorem atPoint_of_accepted {s : State} (hr : s.portInput.rst = false) (hp : s.phase = .idle)
    (hv : s.portInput.cmdValid = true) (accept : Instr → State → StepResult) :
    atPoint accept s = accept (decode s.portInput.cmd) s.nextPoint := by
  simp [atPoint, hr, hv, State.cmdReady, hp]

theorem atPoint_of_quiet {s : State} (hr : s.portInput.rst = false) (hp : s.phase = .idle)
    (hv : s.portInput.cmdValid = false) (accept : Instr → State → StepResult) :
    atPoint accept s = .next s.nextPoint := by
  simp [atPoint, hr, hv, microStep, hp]

theorem atPoint_of_busy {s : State} (hr : s.portInput.rst = false) (hp : s.phase ≠ .idle)
    (accept : Instr → State → StepResult) : atPoint accept s = microStep s.nextPoint := by
  simp [atPoint, hr, State.cmdReady, hp]

/-- Everything one point can be: a reset, an accepted command, an idle engine left alone, or a busy engine's micro-step. -/
theorem atPoint_cases (accept : Instr → State → StepResult) (s : State) :
    (s.portInput.rst = true ∧ atPoint accept s = .next s.nextPoint.resetEvent) ∨
    (s.portInput.rst = false ∧ s.phase = .idle ∧ s.portInput.cmdValid = true ∧
      atPoint accept s = accept (decode s.portInput.cmd) s.nextPoint) ∨
    (s.portInput.rst = false ∧ s.phase = .idle ∧ s.portInput.cmdValid = false ∧ atPoint accept s = .next s.nextPoint) ∨
    (s.portInput.rst = false ∧ s.phase ≠ .idle ∧ atPoint accept s = microStep s.nextPoint) := by
  cases hr : s.portInput.rst with
  | true => exact .inl ⟨rfl, atPoint_of_rst hr accept⟩
  | false =>
    by_cases hp : s.phase = .idle
    · cases hv : s.portInput.cmdValid with
      | true => exact .inr (.inl ⟨rfl, hp, rfl, atPoint_of_accepted hr hp hv accept⟩)
      | false => exact .inr (.inr (.inl ⟨rfl, hp, rfl, atPoint_of_quiet hr hp hv accept⟩))
    · exact .inr (.inr (.inr ⟨rfl, hp, atPoint_of_busy hr hp accept⟩))

/-! ## Micro-steps -/

theorem microStep_of_keygen {s : State} (h : s.phase = .keygen) : microStep s = .next (keygenStep s) := by
  simp [microStep, h]

theorem microStep_of_rounds {s : State} (h : s.phase = .rounds) : microStep s = roundsStep s := by
  simp [microStep, h]

/-- A Feistel micro-step over a written file. -/
theorem roundsStep_of_written {s : State} {ks : Schedule} (h : s.rk = ks.map some) :
    roundsStep s =
      let g := feistelRound s.blockHalves (scheduleKey ks (keyIndex s.dir s.rnd))
      if s.rnd = 15#4 then .next (((s.setBlockHalves g).setPhase .idle).respond (.ok (finalBlock g)))
      else .next ((s.setBlockHalves g).setRound (s.rnd + 1)) := by
  simp [roundsStep, readRoundKey_of_written h, resultField]

/-! ## Runs of points -/

@[simp] theorem runPoints_zero (f : State → StepResult) (s : State) : runPoints f 0 s = .next s := rfl

theorem runPoints_succ_of_next {f : State → StepResult} {s t : State} (h : f s = .next t) (n : Nat) :
    runPoints f (n + 1) s = runPoints f n t := by simp [runPoints, h]

theorem runPoints_add {f : State → StepResult} {m : Nat} {s t : State} (h : runPoints f m s = .next t) (n : Nat) :
    runPoints f (m + n) s = runPoints f n t := by
  induction m generalizing s with
  | zero =>
    have hst : s = t := Host.Outcome.next.inj h
    rw [Nat.zero_add, hst]
  | succ m ih =>
    rw [runPoints] at h
    rw [Nat.add_right_comm, runPoints]
    cases hf : f s with
    | next u =>
      rw [hf] at h
      exact ih h
    | fault e =>
      rw [hf] at h
      simp at h
    | refused e =>
      rw [hf] at h
      simp at h

/-- The first command driven into an idle engine is accepted, and the rest are driven from there. -/
theorem step_drive_cons {s : State} (h : s.phase = .idle) (i : Instr) (is : List Instr) :
    step (s.drive (i :: is)) = exec (decode (encode i)) ((s.drive is).nextPoint.drive is) := by
  have hp : (s.drive (i :: is)).portInput = PortInput.present (encode i) := rfl
  have hd : (s.drive (i :: is)).phase = .idle := h
  rw [step, atPoint_of_accepted (by rw [hp]; rfl) hd (by rw [hp]; rfl), hp]
  rfl

end Sys2Proof.Machine
end

