-- ==== Sys2Proof/Laws/PerInstr.lean ====
section
/-! SUPPORT. Statements made of every instruction, one lemma a constructor.  Family EncodingRow: the word of an
instruction matches its own row of the opcode table under the mask, and its two fields are the row's opcode and the
instruction's operand (R70, R71). -/

namespace Sys2Proof.Laws

/-- The word of `i` matches the row of `i` and holds the operand of `i`. -/
def EncodingRow.Statement (i : Instr) : Prop :=
  encode i &&& opMask = opMatch i ∧ opField (encode i) = opcode i ∧ dataField (encode i) = operand i

/-- A word put together from an opcode and an operand gives both back, and the mask leaves the opcode. -/
theorem EncodingRow.fields (op : BitVec 2) (x : Block) :
    (op ++ x) &&& opMask = op ++ 0#64 ∧ opField (op ++ x) = op ∧ dataField (op ++ x) = x := by
  refine ⟨?_, ?_, ?_⟩
  · rw [opMask, show (0x30000000000000000#66 : CommandWord) = 0b11#2 ++ 0#64 from rfl, BitVec.and_append]
    revert op
    simp
    decide
  · exact BitVec.extractLsb'_append_eq_left
  · exact BitVec.extractLsb'_append_eq_right

theorem EncodingRow.nop (data : Block) : EncodingRow.Statement (.nop data) := EncodingRow.fields 0b00#2 data
theorem EncodingRow.loadkey (data : Block) : EncodingRow.Statement (.loadkey data) := EncodingRow.fields 0b01#2 data
theorem EncodingRow.encrypt (data : Block) : EncodingRow.Statement (.encrypt data) := EncodingRow.fields 0b10#2 data
theorem EncodingRow.decrypt (data : Block) : EncodingRow.Statement (.decrypt data) := EncodingRow.fields 0b11#2 data

end Sys2Proof.Laws
end

