-- ==== Sys2Proof/Laws/Round.lean ====
section
/-! SUPPORT. The micro-steps, round by round: what each leaves, and that the ports do not enter into them. -/

namespace Sys2Proof.Machine

theorem keygenStep_of_ne {s : State} (h : s.rnd ≠ 15#4) :
    keygenStep s = ((s.setKeyHalves (rotateHalves s.keyHalves s.rnd)).writeRoundKey s.rnd
      (selectRoundKey (rotateHalves s.keyHalves s.rnd))).setRound (s.rnd + 1) := by
  simp [keygenStep, h]

theorem keygenStep_of_last {s : State} (h : s.rnd = 15#4) :
    keygenStep s = ((((s.setKeyHalves (rotateHalves s.keyHalves s.rnd)).writeRoundKey s.rnd
      (selectRoundKey (rotateHalves s.keyHalves s.rnd))).setKeyValid true).setPhase .idle).respond (.ok 0#64) := by
  simp [keygenStep, h]

theorem roundsStep_of_none {s : State} (h : s.rkAt (keyIndex s.dir s.rnd) = none) :
    roundsStep s = .fault (.unwrittenRoundKey (keyIndex s.dir s.rnd)) := by
  simp [roundsStep, readRoundKey_of_none h]

theorem roundsStep_of_ne {s : State} {k : RoundKey} (hk : s.rkAt (keyIndex s.dir s.rnd) = some k) (h : s.rnd ≠ 15#4) :
    roundsStep s = .next ((s.setBlockHalves (feistelRound s.blockHalves k)).setRound (s.rnd + 1)) := by
  simp [roundsStep, readRoundKey_of_some hk, h]

theorem roundsStep_of_last {s : State} {k : RoundKey} (hk : s.rkAt (keyIndex s.dir s.rnd) = some k) (h : s.rnd = 15#4) :
    roundsStep s = .next (((s.setBlockHalves (feistelRound s.blockHalves k)).setPhase .idle).respond
      (.ok (finalBlock (feistelRound s.blockHalves k)))) := by
  simp only [roundsStep, readRoundKey_of_some hk, if_pos h, resultField]

/-- Everything a busy engine's micro-step can be, and that the ports make no difference to it: it counts the round up in
its phase with no response, or it is the last and responds, or it stops on an unwritten round key. -/
theorem microStep_cases {s : State} (hb : s.phase ≠ .idle) :
    (s.rnd ≠ 15#4 ∧ ∃ t : State, microStep s = .next t ∧ t.phase = s.phase ∧ t.rnd = s.rnd + 1 ∧ t.dir = s.dir ∧
      t.keyValid = s.keyValid ∧ t.responses = s.responses ∧ t.inputs = s.inputs ∧ t.rsp = s.rsp ∧
      ∀ is o, microStep (s.setPorts is o) = .next (t.setPorts is o)) ∨
    (s.rnd = 15#4 ∧ ∃ (t : State) (a : Response), microStep s = .next (t.respond a) ∧ t.phase = .idle ∧ t.rnd = s.rnd ∧ t.dir = s.dir ∧
      t.responses = s.responses ∧ t.inputs = s.inputs ∧ t.rsp = s.rsp ∧
      ∀ is o, microStep (s.setPorts is o) = .next ((t.setPorts is o).respond a)) ∨
    (s.phase = .rounds ∧ s.rkAt (keyIndex s.dir s.rnd) = none ∧
      ∀ is o, microStep (s.setPorts is o) = .fault (.unwrittenRoundKey (keyIndex s.dir s.rnd))) := by
  cases hp : s.phase with
  | idle => exact absurd hp hb
  | keygen =>
    have hq : ∀ is o, (s.setPorts is o).phase = .keygen := fun _ _ => hp
    by_cases h : s.rnd = 15#4
    · refine .inr (.inl ⟨h, ((s.setKeyHalves (rotateHalves s.keyHalves s.rnd)).writeRoundKey s.rnd
        (selectRoundKey (rotateHalves s.keyHalves s.rnd)) |>.setKeyValid true).setPhase .idle, .ok 0#64, ?_, by simp, by simp,
        by simp, by simp, by simp, by simp, fun is o => ?_⟩)
      · rw [microStep_of_keygen hp, keygenStep_of_last h]
      · rw [microStep_of_keygen (hq is o), keygenStep_of_last (show (s.setPorts is o).rnd = 15#4 from h)]
        rfl
    · refine .inl ⟨h, _, by rw [microStep_of_keygen hp, keygenStep_of_ne h], by simp [hp], by simp, by simp, by simp, by simp,
        by simp, by simp, fun is o => ?_⟩
      rw [microStep_of_keygen (hq is o), keygenStep_of_ne (show (s.setPorts is o).rnd ≠ 15#4 from h)]
      rfl
  | rounds =>
    have hq : ∀ is o, (s.setPorts is o).phase = .rounds := fun _ _ => hp
    cases hk : s.rkAt (keyIndex s.dir s.rnd) with
    | none =>
      refine .inr (.inr ⟨rfl, rfl, fun is o => ?_⟩)
      rw [microStep_of_rounds (hq is o), roundsStep_of_none (s := s.setPorts is o) hk]
      rfl
    | some k =>
      have hk' : ∀ is o, (s.setPorts is o).rkAt (keyIndex (s.setPorts is o).dir (s.setPorts is o).rnd) = some k :=
        fun _ _ => hk
      by_cases h : s.rnd = 15#4
      · refine .inr (.inl ⟨h, (s.setBlockHalves (feistelRound s.blockHalves k)).setPhase .idle,
          .ok (finalBlock (feistelRound s.blockHalves k)), ?_, by simp, by simp, by simp, by simp, by simp, by simp,
          fun is o => ?_⟩)
        · rw [microStep_of_rounds hp, roundsStep_of_last hk h]
        · rw [microStep_of_rounds (hq is o), roundsStep_of_last (hk' is o) (show (s.setPorts is o).rnd = 15#4 from h)]
          rfl
      · refine .inl ⟨h, _, by rw [microStep_of_rounds hp, roundsStep_of_ne hk h], by simp [hp], by simp, by simp, by simp,
          by simp, by simp, by simp, fun is o => ?_⟩
        rw [microStep_of_rounds (hq is o), roundsStep_of_ne (hk' is o) (show (s.setPorts is o).rnd ≠ 15#4 from h)]
        rfl

/-- A round index that is not the last counts up by one. -/
theorem toNat_succ_of_ne {i : RoundIndex} (h : i ≠ 15#4) : (i + 1).toNat = i.toNat + 1 := by
  revert i
  decide

end Sys2Proof.Machine
end

