-- ==== Sys2Proof/Tests/Slice0.lean ====
section
/-! SUPPORT. The model's own tests.  Every expected value is the spec's (95_test_vectors.md, or the example of the rule
cited), never the model's answer.  The witnesses at the end meet the hypotheses of the obligations they are named after. -/

namespace Sys2Proof.Tests

open Sys2Proof.Machine

/-! ## Helpers -/

/-- The known-answer key (95_test_vectors.md section 1.1). -/
def katKey : Block := 0x133457799BBCDFF1#64

/-- Just after reset, with the complete schedule of a key loaded. -/
def loaded (key : Block) : State := { State.reset with rk := (keySchedule key).map some, keyValid := true }

/-- A LOADKEY of the key in progress, before round `n`. -/
def keygenAt (key : Block) (n : Nat) : State :=
  { State.reset with
    rk := (keySchedule key).map some
    phase := .keygen
    rnd := BitVec.ofNat 4 n
    c := (keyHalvesAfter key n).c
    d := (keyHalvesAfter key n).d }

/-- A block operation in progress, at round `n`. -/
def roundsAt (key : Block) (n : Nat) : State := { loaded key with phase := .rounds, rnd := BitVec.ofNat 4 n }

/-- The responses at the end, if the machine went on. -/
def responsesOf : StepResult → Option (List Response)
  | .next t => some t.responses
  | .fault _ => none
  | .refused _ => none

/-- The state, if the machine went on. -/
def stateOf : StepResult → Option State
  | .next t => some t
  | .fault _ => none
  | .refused _ => none

/-- The bytes, if the adapter produced some. -/
def bytesOf : Except AdapterStop (List Byte) → Option (List Byte)
  | .ok bytes => some bytes
  | .error _ => none

/-! ## Well-formedness: each check refuses an ill-formed table (R99) -/

theorem test_index_table_refuses_wrong_length : isIndexTable 48 32 (tableE.drop 1) = false := by decide
theorem test_index_table_refuses_zero : isIndexTable 4 4 [1, 2, 0, 4] = false := by decide
theorem test_index_table_refuses_too_large : isIndexTable 4 4 [1, 2, 5, 4] = false := by decide
theorem test_permutation_refuses_repeat : isPermutationTable 4 [1, 2, 2, 4] = false := by decide
theorem test_inverse_refuses_other_permutation : isInverseTable tableIP tableIP = false := by decide
theorem test_sbox_row_refuses_repeat : isSboxRow [0, 1, 2, 3, 4, 5, 6, 7, 8, 9, 10, 11, 12, 13, 14, 14] = false := by decide
theorem test_sbox_matrix_refuses_seven_boxes : isSboxMatrix (engineTables.sbox.drop 1) = false := by decide
theorem test_shift_refuses_three : isShiftTable [1, 1, 2, 2, 2, 2, 2, 2, 1, 2, 2, 2, 2, 2, 2, 3] = false := by decide
theorem test_tables_refuse_short_p : Tables.wellFormed { engineTables with p := engineTables.p.drop 1 } = false := by decide

/-! ## Decoding: words written out bit by bit (R70, R71, 95_test_vectors.md section 2.5) -/

theorem test_decode_nop : decode (0b00#2 ++ 0xFFFFFFFFFFFFFFFF#64) = .nop 0xFFFFFFFFFFFFFFFF#64 := by decide
theorem test_decode_loadkey :
    decode 0b010001001100110100010101110111100110011011101111001101111111110001#66 = .loadkey 0x133457799BBCDFF1#64 := by
  decide
theorem test_decode_encrypt :
    decode 0b100000000100100011010001010110011110001001101010111100110111101111#66 = .encrypt 0x0123456789ABCDEF#64 := by
  decide
theorem test_decode_decrypt :
    decode 0b111000010111101000000100110101010000001111000010101011010000000101#66 = .decrypt 0x85E813540F0AB405#64 := by
  decide
theorem test_decode_zero_operands :
    decode 0x10000000000000000#66 = .loadkey 0#64 ∧ decode 0x30000000000000000#66 = .decrypt 0#64 := by decide
theorem test_decode_rejects_bit_66 :
    decodeBits (2 ^ 66) = .error .widerThanCommandPort ∧ decodeBits (2 ^ 66 - 1) = .ok (.decrypt (BitVec.allOnes 64)) := by
  decide
theorem test_encode_decrypt : encode (.decrypt 0x85E813540F0AB405#64) = 0x385E813540F0AB405#66 := by decide

/-! ## Text (R77) -/

theorem test_read_line :
    readLine "LOADKEY 0x133457799BBCDFF1     ; cmd = 0x1_133457799BBCDFF1".toList = .command (.loadkey katKey) ∧
    readLine "NOP                            ; cmd = 0x0_0000000000000000".toList = .command (.nop 0#64) := by
  decide +kernel
theorem test_read_line_refuses :
    readLine "nop".toList = .malformed ∧ readLine "ENCRYPT 0x0123".toList = .malformed ∧
    readLine "NOP 0x0123456789ABCDEF".toList = .malformed ∧ readLine "; no key yet".toList = .blank := by
  decide +kernel
theorem test_word_text : wordText 0x20123456789ABCDEF#66 = "0x2_0123456789ABCDEF".toList := by decide +kernel
theorem test_response_text :
    responseText (.ok 0x85E813540F0AB405#64) = "OK 0x85E813540F0AB405".toList ∧
    responseText .keyNotLoaded = "ERR KeyNotLoaded".toList := by
  decide +kernel

/-! ## The stages (95_test_vectors.md sections 1.1, 1.2, 2.1 to 2.3) -/

theorem test_permute_one_bit :
    permute 64 engineTables.ip 0x8000000000000000#64 = 0x0000000001000000#64 ∧
    permute 48 engineTables.e 0x00000001#32 = 0x800000000002#48 ∧
    permute 32 engineTables.p 0x00010000#32 = 0x80000000#32 := by
  decide +kernel
theorem test_rotation_wraps :
    rotl28 0x8000000#28 1 = 0x0000001#28 ∧ rotl28 0xC000000#28 2 = 0x0000003#28 ∧
    rotl28 0x0000001#28 1 = 0x0000002#28 := by
  decide +kernel
theorem test_schedule_ends :
    scheduleKey (keySchedule katKey) 0#4 = 0x1B02EFFC7072#48 ∧
    scheduleKey (keySchedule katKey) 15#4 = 0xCB3D8B0E17F5#48 := by
  decide +kernel
theorem test_round_function :
    roundFunction 0xF0AAF0AA#32 0x1B02EFFC7072#48 = 0x234AA9BB#32 ∧ roundFunction 0#32 0#48 = 0xD8D8DBBC#32 := by
  decide +kernel

/-! ## One step of each command -/

/-- R147: no effect, also with no key loaded. -/
theorem test_nop_changes_nothing : stateOf (exec (.nop (BitVec.allOnes 64)) State.reset) = some State.reset := by decide

/-- R116: the response and the round keys. -/
theorem test_loadkey :
    (stateOf (exec (.loadkey katKey) State.reset)).map (fun t => (t.rkAt 0#4, t.keyValid, t.rsp)) =
      some (some 0x1B02EFFC7072#48, true, some (.ok 0#64)) := by
  decide +kernel

/-- R145: the known-answer vector. -/
theorem test_encrypt :
    responsesOf (exec (.encrypt 0x0123456789ABCDEF#64) (loaded katKey)) = some [.ok 0x85E813540F0AB405#64] := by
  decide +kernel

/-- R182: with no key, the error and not the all-zero-key result. -/
theorem test_encrypt_without_key :
    stateOf (exec (.encrypt 0#64) State.reset) =
      some { State.reset with rsp := some .keyNotLoaded, responses := [.keyNotLoaded] } := by
  decide

/-- R146: DECRYPT of the plaintext, which tells the key order (95_test_vectors.md section 1.5). -/
theorem test_decrypt :
    responsesOf (exec (.decrypt 0x0123456789ABCDEF#64) (loaded katKey)) = some [.ok 0xEE0F7C12E0B09338#64] := by
  decide +kernel

theorem test_decrypt_without_key :
    responsesOf (exec (.decrypt 0x85E813540F0AB405#64) State.reset) = some [.keyNotLoaded] := by decide

/-! ## One point of the ports -/

/-- R79, R117: at the round level a LOADKEY is under way after its acceptance, with `KEY_VALID` 0. -/
theorem test_round_level_acceptance :
    (stateOf (roundStep ((loaded 0#64).drive [.loadkey katKey]))).map
        (fun t => ((t.phase, t.rnd, t.keyValid), t.c, t.d, t.cmdReady)) =
      some ((.keygen, 0#4, false), 0xF0CCAAF#28, 0x556678F#28, false) := by
  decide +kernel

/-- R117, 95_test_vectors.md section 1.1: the row i = 0. -/
theorem test_round_level_keygen :
    (stateOf (microStep (keygenAt katKey 0))).map (fun t => (t.c, t.d, t.rkAt 0#4, t.rnd)) =
      some (0xE19955F#28, 0xAACCF1E#28, some 0x1B02EFFC7072#48, 1#4) := by
  decide +kernel

/-- R150, 95_test_vectors.md section 1.2: the row i = 0. -/
theorem test_round_level_rounds :
    (stateOf (microStep { roundsAt katKey 0 with l := 0xCC00CCFF#32, r := 0xF0AAF0AA#32 })).map
        (fun t => (t.l, t.r, t.rnd)) =
      some (0xF0AAF0AA#32, 0xEF4A6544#32, 1#4) := by
  decide +kernel

/-- R185, R201: a command presented at the point of a reset is not accepted. -/
theorem test_reset_wins :
    (stateOf (step { loaded katKey with inputs := [{ rst := true, cmdValid := true, cmd := encode (.encrypt 0#64) }] })).map
        (fun t => (t.responses, t.keyValid, t.rkAt 15#4)) =
      some ([], false, none) := by
  decide +kernel

/-- The host's two questions of `step` and `decodeTableWord`: the word presented is what runs. -/
theorem test_fetch_word :
    responsesOf (step (State.reset.withFetchWord 72 0x10000000000000000)) = some [.ok 0#64] ∧
    decodeTableWord 72 0x10000000000000000 = some (.loadkey 0#64) := by
  decide +kernel

/-! ## The host adapter (95_test_vectors.md section 2.6) -/

theorem test_pack : packBytes [0x01, 0x23, 0x45, 0x67, 0x89, 0xAB, 0xCD, 0xEF] = 0x80C4A2E691D5B3F7#64 := by decide +kernel
theorem test_unpack :
    unpackBlock 0x85E813540F0AB405#64 = [0xA1, 0x17, 0xC8, 0x2A, 0xF0, 0x50, 0x2D, 0xA0] := by decide +kernel
theorem test_fill : fileGroups [0x41, 0x42, 0x43] = [[0x41, 0x42, 0x43, 0x05, 0x05, 0x05, 0x05, 0x05]] := by decide +kernel
theorem test_empty_file : bytesOf (encryptFile katKey [] State.reset) = some [] := by decide +kernel
theorem test_encrypt_file :
    bytesOf (encryptFile katKey [0x31, 0x32, 0x33, 0x34, 0x35, 0x36, 0x37] State.reset) =
      some [0x8F, 0xD5, 0xC4, 0x38, 0xFF, 0x2F, 0xF6, 0x4F] := by
  decide +kernel
theorem test_partial_ciphertext : decryptFile katKey [0x31] State.reset = .error .partialCiphertext := rfl

/-! ## Witnesses: a state and operands that meet all hypotheses of the obligation named, at the ends of each range -/

theorem loaded_inv (key : Block) : (loaded key).Inv := ⟨fun _ => ⟨key, rfl⟩, fun a h => by simp [loaded, State.reset] at h⟩

/-- A LOADKEY in progress meets the invariant, at each of its sixteen rounds. -/
theorem keygenAt_inv (key : Block) (n : Nat) (hn : n < 16) : (keygenAt key n).Inv := by
  refine ⟨⟨rfl, key, ?_, ?_⟩, fun a h => by simp [keygenAt, State.reset] at h⟩
  · show (keyHalvesAfter key n) = keyHalvesAfter key (BitVec.ofNat 4 n).toNat
    rw [BitVec.toNat_ofNat, Nat.mod_eq_of_lt hn]
  · intro i _
    rw [State.rkAt_of_written (ks := keySchedule key) rfl, scheduleKey_keySchedule]

/-- A block operation in progress meets the invariant. -/
theorem roundsAt_inv (key : Block) (n : Nat) : (roundsAt key n).Inv :=
  ⟨⟨rfl, key, rfl⟩, fun a h => by simp [roundsAt, loaded, State.reset] at h⟩

/-- A block command runs once a key is loaded. -/
theorem block_runs (dir : Dir) (x key : Block) : ∃ t, exec (Instr.block dir x) (loaded key) = .next t :=
  ⟨_, (exec_block dir x (loaded key)).trans (blockOperation_of_written (ks := keySchedule key) rfl rfl dir x)⟩

theorem test_witness_DecodeOfEncode : (Instr.decrypt (BitVec.allOnes 64)).wellFormed = true := by decide

theorem test_witness_DecodeFollowsOpcodeMap :
    opField 0x0FFFFFFFFFFFFFFFF#66 = 0b00#2 ∧ opField 0x10000000000000000#66 = 0b01#2 ∧
    opField 0x2FFFFFFFFFFFFFFFF#66 = 0b10#2 ∧ opField 0x30000000000000000#66 = 0b11#2 ∧
    (0x20000000000000000#66 : CommandWord).getLsbD 65 = true := by decide

theorem test_witness_DataFieldIsOperandWhole :
    0 < 64 ∧ 63 < 64 ∧ (Response.ok (resultField 0x85E813540F0AB405#64)).isWord 0x085E813540F0AB405#65 = true := by decide

theorem test_witness_ReadLineOfCommandText :
    (∀ d, Instr.nop 0#64 = .nop d → d = 0#64) ∧ (∀ d, Instr.decrypt 0#64 = .nop d → d = 0#64) :=
  ⟨fun _ h => (Instr.nop.inj h).symm, fun _ h => by simp at h⟩

theorem test_witness_RotationAsIntegers : (1 = 1 ∨ 1 = 2) ∧ (2 = 1 ∨ 2 = 2) := by decide

theorem test_witness_RotationStateAccumulates : 0 < 16 ∧ 15 < 16 := by decide

theorem test_witness_RoundKeyBitIsOneKeyBit : 0 < 48 ∧ 47 < 48 := by decide

theorem test_witness_ParityBitsDoNotMatter :
    0x0101010101010101#64 &&& ~~~0x0101010101010101#64 = 0#64 ∧ 0#64 &&& ~~~0x0101010101010101#64 = 0#64 := by decide

theorem test_witness_RoundKeyHalvesDependOnOneHalf :
    (KeyHalves.mk 1#28 2#28).c = (KeyHalves.mk 1#28 3#28).c ∧ 23 < 24 ∧
    (KeyHalves.mk 1#28 2#28).d = (KeyHalves.mk 5#28 2#28).d ∧ 24 ≤ 24 ∧ 24 ≤ 47 ∧ 47 < 48 := by decide

theorem test_witness_ConstantHalvesGiveEqualRoundKeys :
    (initialKeyHalves 0xE0E0E0E0F1F1F1F1#64).c = 0xFFFFFFF#28 ∧ (initialKeyHalves 0xE0E0E0E0F1F1F1F1#64).d = 0#28 ∧
    (initialKeyHalves 0x1F1F1F1F0E0E0E0E#64).c = 0#28 ∧ (initialKeyHalves 0x1F1F1F1F0E0E0E0E#64).d = 0xFFFFFFF#28 := by
  decide +kernel

theorem test_witness_ExpansionGroupTakesNeighbours : 0 < 8 ∧ 7 < 8 ∧ 0 < 6 ∧ 5 < 6 := by decide

theorem test_witness_SubstitutionPlacesEntries : 0 < 8 ∧ 7 < 8 ∧ 0 < 4 ∧ 3 < 4 := by decide

theorem test_witness_PalindromicScheduleUndoesItself :
    ∀ i : RoundIndex, scheduleKey (Vector.replicate 16 0x1B02EFFC7072#48) i =
      scheduleKey (Vector.replicate 16 0x1B02EFFC7072#48) (15#4 - i) := by decide +kernel

theorem test_witness_NopHasNoEffect : opField 0x0FFFFFFFFFFFFFFFF#66 = 0b00#2 := by decide

theorem test_witness_LoadkeyResult : opField 0x1FFFFFFFFFFFFFFFF#66 = 0b01#2 := by decide

theorem test_witness_EncryptResult :
    opField 0x20123456789ABCDEF#66 = 0b10#2 ∧ State.reset.keyValid = false ∧
    (loaded katKey).keyValid = true ∧ (loaded katKey).rk = (keySchedule katKey).map some := ⟨by decide, rfl, rfl, rfl⟩

theorem test_witness_DecryptResult :
    opField 0x385E813540F0AB405#66 = 0b11#2 ∧ State.reset.keyValid = false ∧
    (loaded katKey).keyValid = true ∧ (loaded katKey).rk = (keySchedule katKey).map some := ⟨by decide, rfl, rfl, rfl⟩

theorem test_witness_WorkingRegistersAfterCommands :
    (loaded 0#64).keyValid = true ∧ (loaded 0#64).rk = (keySchedule 0#64).map some := ⟨rfl, rfl⟩

/-- No round key written: round 0 of either direction stops; and only `RK[0]` unwritten: round 15 of DECRYPT. -/
theorem test_witness_BlockCommandStopsOnUnwrittenKey :
    let s : State := { State.reset with keyValid := true }
    let u : State := { s with rk := (Vector.replicate 16 (some 0#48)).set 0 none }
    s.keyValid = true ∧ s.rkAt (keyIndex .enc 0#4) = none ∧
    (∀ j : RoundIndex, j < 0#4 → s.rkAt (keyIndex .enc j) ≠ none) ∧
    u.rkAt (keyIndex .dec 15#4) = none ∧ (∀ j : RoundIndex, j < 15#4 → u.rkAt (keyIndex .dec j) ≠ none) := by
  decide +kernel

theorem test_witness_KeyNotLoadedExactlyWithoutKey :
    (∃ t, exec (.encrypt 0#64) State.reset = .next t) ∧ (∃ t, exec (.nop 0#64) State.reset = .next t) ∧
    Instr.encrypt 0#64 = Instr.block .enc 0#64 ∧ State.reset.keyValid = false := ⟨⟨_, rfl⟩, ⟨_, rfl⟩, rfl, rfl⟩

theorem test_witness_KeyNotLoadedChangesNothing :
    let s : State := { State.reset with inputs := [PortInput.present 0x30000000000000000#66] }
    s.phase = .idle ∧ s.keyValid = false ∧ s.inputs = PortInput.present 0x30000000000000000#66 :: [] ∧
    (0x30000000000000000#66 : CommandWord).getLsbD 65 = true := ⟨rfl, rfl, rfl, by decide⟩

theorem test_witness_OneResponsePerCommand :
    (∃ t, exec (.nop 0#64) State.reset = .next t) ∧ (∃ t, exec (.loadkey 0#64) State.reset = .next t) ∧
    (∃ t, exec (.decrypt 0#64) State.reset = .next t) ∧ responseCount (.loadkey 0#64) = 1 :=
  ⟨⟨_, rfl⟩, ⟨_, rfl⟩, ⟨_, rfl⟩, rfl⟩

theorem test_witness_CommandFrames :
    (∃ t, exec (.nop 0#64) State.reset = .next t) ∧ (∃ t, exec (.loadkey 0#64) State.reset = .next t) ∧ (∃ t, exec (.encrypt 0#64) (loaded 0#64) = .next t) ∧
    (∀ k, Instr.encrypt 0#64 ≠ .loadkey k) :=
  ⟨⟨_, rfl⟩, ⟨_, rfl⟩, block_runs .enc _ _, fun _ h => by simp at h⟩

theorem test_witness_CommandsRepeat :
    (∃ t, exec (.loadkey 0#64) State.reset = .next t) ∧ (∃ t, exec (Instr.block .dec 0#64) (loaded 0#64) = .next t) ∧
    (∃ t, exec (Instr.block .dec 0#64) State.reset = .next t) :=
  ⟨⟨_, rfl⟩, block_runs .dec _ _, ⟨_, rfl⟩⟩

/-- Two states that differ in the working registers only. -/
theorem test_witness_ResponseDependsOnScheduleOnly :
    let s' : State := { loaded 0#64 with l := 1#32, c := 7#28, rnd := 9#4 }
    (loaded 0#64).rk = s'.rk ∧ (loaded 0#64).keyValid = s'.keyValid ∧
    ∃ t, exec (Instr.block .enc 0#64) (loaded 0#64) = .next t :=
  ⟨rfl, rfl, block_runs .enc _ _⟩

theorem test_witness_StepRunsPresentedCommand :
    State.reset.phase = .idle ∧
    (State.reset.drive [.nop 0#64]).inputs = PortInput.present (encode (.nop 0#64)) :: [] := ⟨rfl, rfl⟩

/-- With a command presented, and with nothing driven. -/
theorem test_witness_BusyEngineIgnoresCommand :
    let s : State := { keygenAt 0#64 3 with inputs := [PortInput.present 0x10000000000000000#66] }
    s.phase ≠ .idle ∧ s.portInput.rst = false ∧ s.portInput.cmdValid = true ∧
    (roundsAt 0#64 15).phase ≠ .idle ∧ (roundsAt 0#64 15).portInput.rst = false := by decide

theorem test_witness_IdleEngineStaysIdle :
    State.reset.phase = .idle ∧ State.reset.portInput.rst = false ∧ State.reset.portInput.cmdValid = false :=
  ⟨rfl, rfl, rfl⟩

theorem test_witness_ResetEventWins :
    (State.portInput { roundsAt 0#64 5 with inputs := [PortInput.requestReset] }).rst = true := rfl

/-- A step that clears `KEY_VALID`, the two that set it, and one that changes a round key. -/
theorem test_witness_OnlyLoadkeyAndResetChangeKeys :
    (∃ t, step { loaded 0#64 with inputs := [PortInput.requestReset] } = .next t ∧
      (loaded 0#64).keyValid = true ∧ t.keyValid = false ∧ t.rk ≠ (loaded 0#64).rk) ∧
    (∃ t, step (State.reset.drive [.loadkey 0#64]) = .next t ∧ State.reset.keyValid = false ∧ t.keyValid = true) ∧
    (∃ t, step (keygenAt 0#64 15) = .next t ∧ (keygenAt 0#64 15).keyValid = false ∧ t.keyValid = true) := by
  refine ⟨⟨_, rfl, rfl, rfl, fun h => ?_⟩, ⟨_, rfl, rfl, rfl⟩, ⟨_, rfl, rfl, rfl⟩⟩
  have h0 := State.rkAt_congr h 0#4
  rw [State.rkAt_of_written (s := loaded 0#64) (ks := keySchedule 0#64) rfl] at h0
  exact absurd h0 (by simp [State.rkAt, State.resetEvent])

theorem test_witness_LoadkeyMicroSteps :
    (keygenAt 0#64 0).phase = .keygen ∧ (keygenAt 0#64 15).phase = .keygen ∧ State.reset.phase = .idle ∧
    (∃ u, acceptCommand (.loadkey 0#64) State.reset = .next u) ∧ (∃ t, exec (.loadkey 0#64) State.reset = .next t) :=
  ⟨rfl, rfl, rfl, ⟨_, rfl⟩, ⟨_, rfl⟩⟩

theorem test_witness_BlockMicroSteps :
    (loaded 0#64).keyValid = true ∧ State.reset.keyValid = false ∧
    (roundsAt 0#64 15).phase = .rounds ∧
    (roundsAt 0#64 15).rkAt ((roundsAt 0#64 15).rnd ^^^ (if (roundsAt 0#64 15).dir.bit then 15#4 else 0#4)) = some 0#48 ∧
    (loaded 0#64).phase = .idle ∧ (∃ u, acceptCommand (Instr.block .dec 0#64) (loaded 0#64) = .next u) ∧
    (∃ t, exec (Instr.block .dec 0#64) (loaded 0#64) = .next t) :=
  ⟨rfl, rfl, rfl, by decide +kernel, rfl, ⟨_, rfl⟩, block_runs .dec _ _⟩

theorem test_witness_RoundLevelRefinesCommandLevel :
    (loaded 0#64).Inv ∧ (loaded 0#64).phase = .idle ∧ (List.replicate 16 (PortInput.present 0#66)).length = 16 ∧
    (∀ q ∈ List.replicate 16 (PortInput.present 0#66), q.rst = false) ∧
    (∃ dir x, decode 0x30000000000000000#66 = Instr.block dir x) ∧ (loaded 0#64).keyValid = true ∧
    (∃ key, decode 0x10000000000000000#66 = .loadkey key) :=
  ⟨loaded_inv _, rfl, by decide, by decide, ⟨.dec, 0#64, by decide⟩, rfl, ⟨0#64, by decide⟩⟩

/-- In progress at its first and at its last round, LOADKEY and block command. -/
theorem test_witness_BusyEngineReturnsToIdle :
    (keygenAt 0#64 0).Inv ∧ (keygenAt 0#64 0).phase ≠ .idle ∧ (roundsAt 0#64 15).Inv ∧ (roundsAt 0#64 15).phase ≠ .idle ∧
    (∀ q ∈ (keygenAt 0#64 0).inputs.take (16 - (keygenAt 0#64 0).rnd.toNat), q.rst = false) ∧
    (0 < 16 - (keygenAt 0#64 0).rnd.toNat ∧ 15 < 16 - (keygenAt 0#64 0).rnd.toNat) ∧
    (∀ q ∈ (roundsAt 0#64 15).inputs.take (16 - (roundsAt 0#64 15).rnd.toNat), q.rst = false) :=
  ⟨keygenAt_inv _ 0 (by decide), by decide, roundsAt_inv _ 15, by decide, by decide, by decide, by decide⟩

theorem test_witness_StepKeepsInvariant :
    (loaded 0#64).Inv ∧ ∃ t, step ((loaded 0#64).drive [.loadkey katKey]) = .next t := ⟨loaded_inv _, _, rfl⟩

theorem test_witness_RoundStepKeepsInvariant :
    (keygenAt 0#64 15).Inv ∧ ∃ t, roundStep (keygenAt 0#64 15) = .next t := ⟨keygenAt_inv _ 15 (by decide), _, rfl⟩

theorem test_witness_EngineNeverStops : (loaded 0#64).Inv ∧ (keygenAt 0#64 7).Inv ∧ (roundsAt 0#64 7).Inv :=
  ⟨loaded_inv _, keygenAt_inv _ 7 (by decide), roundsAt_inv _ 7⟩

theorem test_witness_CommandSequenceCompletes : (loaded 0#64).Inv ∧ (loaded 0#64).phase = .idle := ⟨loaded_inv _, rfl⟩

theorem test_witness_ErrorIsNotSticky : State.reset.phase = .idle ∧ State.reset.keyValid = false := ⟨rfl, rfl⟩

theorem test_witness_LastLoadkeyGoverns :
    State.reset.phase = .idle ∧
    ∀ i ∈ [Instr.encrypt 0#64, .nop 0#64, .decrypt 1#64], ∀ k, i ≠ .loadkey k := by
  refine ⟨rfl, fun i hi k h => ?_⟩
  subst h
  simp at hi

theorem test_witness_BlockCommandsAreIndependent : (loaded katKey).Inv ∧ (loaded katKey).phase = .idle := ⟨loaded_inv _, rfl⟩

theorem test_witness_UnpackInvertsPack : ([1, 2, 3, 4, 5, 6, 7, 8] : List Byte).length = 8 ∧ 0 < 8 ∧ 7 < 8 := by decide

theorem test_witness_FileGroupsFillTheLast :
    [0x41, 0x42, 0x43, 0x05, 0x05, 0x05, 0x05, 0x05] ∈ fileGroups [0x41, 0x42, 0x43] ∧
    ([1, 2, 3, 4, 5, 6, 7, 8] : List Byte).length % 8 = 0 := by decide +kernel

theorem test_witness_FileRoundTrip :
    State.reset.phase = .idle ∧ (loaded 0#64).phase = .idle ∧ ([1, 2, 3, 4, 5, 6, 7, 8] : List Byte).length % 8 = 0 :=
  ⟨rfl, rfl, by decide⟩

/-- 95_test_vectors.md section 3, program P5: the two groups of the ten-byte file. -/
theorem test_witness_FileGroupsAreIndependent :
    State.reset.phase = .idle ∧ ([0x41, 0x42, 0x43, 0x44, 0x45, 0x46, 0x47, 0x48] : List Byte).length % 8 = 0 ∧
    bytesOf (encryptFile katKey [0x41, 0x42, 0x43, 0x44, 0x45, 0x46, 0x47, 0x48] State.reset) =
      some [0x1B, 0xB4, 0x3E, 0x6B, 0xDB, 0x41, 0x1F, 0x12] ∧
    bytesOf (encryptFile katKey [0x49, 0x4A] State.reset) = some [0x8A, 0x4D, 0xF1, 0xAA, 0xBE, 0x06, 0xEF, 0xF7] := by
  decide +kernel

end Sys2Proof.Tests
end

/-! SUPPORT. The two levels of the engine compared (R12): sixteen micro-steps end where the command level's one atomic
step does (R117, R150), and at the ports of a busy engine nothing but `rst` enters into them (R79).  Then the
statements of the family 00_scope. -/

namespace Sys2Proof.Machine

/-! ## The ports of a busy engine -/

@[simp] theorem runPoints_one (f : State → StepResult) (s : State) : runPoints f 1 s = f s := by
  cases h : f s <;> simp [runPoints, h]

/-- A busy engine that is not reset spends the input of this point and takes its micro-step. -/
theorem roundStep_of_busy {s : State} (hb : s.phase ≠ .idle) {q : PortInput} (hq : q.rst = false)
    (is : List PortInput) (o : Option Response) :
    roundStep (s.setPorts (q :: is) o) = microStep (s.setPorts is none) :=
  atPoint_of_busy (s := s.setPorts (q :: is) o) hq hb acceptCommand

/-- What the micro-steps of a command in progress do through the ports: as many points without a reset as rounds
remain take a busy engine where its bare micro-steps take it, whatever else the host drives at them (R79). -/
theorem runPoints_roundStep_of_busy {m : Nat} {s t : State} (hb : s.phase ≠ .idle) (hm : s.rnd.toNat + m = 16)
    (ht : runPoints microStep m s = .next t) {busy : List PortInput} (hlen : busy.length = m)
    (hrst : ∀ q ∈ busy, q.rst = false) (rest : List PortInput) (o : Option Response) :
    runPoints roundStep m (s.setPorts (busy ++ rest) o) = .next (t.setPorts rest t.rsp) := by
  induction m generalizing s busy o with
  | zero =>
    have := s.rnd.isLt
    omega
  | succ m ih =>
    obtain ⟨q, qs, rfl⟩ := List.exists_cons_of_length_eq_add_one hlen
    have hlen' : qs.length = m := by simpa using hlen
    have hpoint := roundStep_of_busy hb (hrst q (by simp)) (qs ++ rest) o
    obtain ⟨hne, u, hu, hphase, hrnd, -, -, -, -, -, hports⟩ | ⟨hlast, u, a, hu, -, -, -, -, -, -, hports⟩ |
      ⟨-, -, hports⟩ := microStep_cases hb
    · rw [runPoints_succ_of_next hu] at ht
      rw [List.cons_append, runPoints_succ_of_next (hpoint.trans (hports _ _))]
      have hsucc := toNat_succ_of_ne hne
      exact ih (hphase ▸ hb) (by rw [hrnd]; omega) ht hlen' (fun p hp => hrst p (by simp [hp])) none
    · have h15 : s.rnd.toNat = 15 := by rw [hlast]; rfl
      obtain rfl : m = 0 := by omega
      obtain rfl : qs = [] := List.length_eq_zero_iff.mp hlen'
      obtain rfl : u.respond a = t := by simpa [runPoints, hu] using ht
      exact runPoints_succ_of_next (hpoint.trans (hports _ _)) 0
    · have hfault : microStep s = _ := hports s.inputs s.rsp
      simp [runPoints, hfault] at ht

/-! ## The sixteen micro-steps of a block command -/

/-- A block command in progress over the schedule `ks`, before round `n` (R150). -/
def State.cryptAt (s : State) (dir : Dir) (x : Block) (ks : Schedule) (n : Nat) : State :=
  (((s.setBlockHalves (blockHalvesAfter dir x ks n)).setRound (BitVec.ofNat 4 n)).setDir dir).setPhase .rounds

/-- A round below the last is not round 15. -/
theorem round_ne_last {n : Nat} (h : n < 15) : BitVec.ofNat 4 n ≠ 15#4 := by
  intro he
  have := congrArg BitVec.toNat he
  simp at this
  omega

theorem acceptBlock_of_key {s : State} (hv : s.keyValid = true) (dir : Dir) (x : Block) (ks : Schedule) :
    acceptBlock dir x s = .next (s.cryptAt dir x ks 0) := requireKey_of_true hv _

section
variable {s : State} {ks : Schedule} (hw : s.rk = ks.map some) (dir : Dir) (x : Block)
include hw

/-- The round key that round `n` of a block command reads. -/
theorem State.cryptAt_rkAt (n : Nat) :
    (s.cryptAt dir x ks n).rkAt (keyIndex (s.cryptAt dir x ks n).dir (s.cryptAt dir x ks n).rnd) =
      some (scheduleKey ks (keyIndex dir (BitVec.ofNat 4 n))) :=
  State.rkAt_of_written (s := s.cryptAt dir x ks n) hw _

theorem microStep_cryptAt {n : Nat} (h : n < 15) :
    microStep (s.cryptAt dir x ks n) = .next (s.cryptAt dir x ks (n + 1)) := by
  rw [microStep_of_rounds rfl, roundsStep_of_ne (State.cryptAt_rkAt hw dir x n) (round_ne_last h)]
  simp only [State.cryptAt, BitVec.ofNat_add]
  rfl

theorem runPoints_microStep_cryptAt {n : Nat} (h : n ≤ 15) :
    runPoints microStep n (s.cryptAt dir x ks 0) = .next (s.cryptAt dir x ks n) := by
  induction n with
  | zero => rfl
  | succ n ih => rw [runPoints_add (ih (by omega)), runPoints_one, microStep_cryptAt hw dir x h]

/-- Sixteen micro-steps after its acceptance a block command has done what the command level does in one step (R150). -/
theorem runPoints_microStep_block (hp : s.phase = .idle) (hv : s.keyValid = true) :
    runPoints microStep 16 (s.cryptAt dir x ks 0) = exec (Instr.block dir x) s := by
  have hlast : microStep (s.cryptAt dir x ks 15) = exec (Instr.block dir x) s := by
    rw [microStep_of_rounds rfl, roundsStep_of_last (State.cryptAt_rkAt hw dir x 15) rfl, exec_block,
      blockOperation_of_written hv hw]
    exact congrArg _ (State.ext rfl rfl hp.symm rfl rfl rfl rfl rfl rfl rfl rfl rfl rfl)
  rw [runPoints_add (runPoints_microStep_cryptAt hw dir x le_rfl) 1, runPoints_one, hlast]

end

/-! ## The sixteen micro-steps of a LOADKEY -/

/-- `RK` in the middle of a LOADKEY: below `n` the round keys of `ks`, the others as they were (R117). -/
def roundKeysBelow (ks : Schedule) (rk : Vector (Option RoundKey) 16) (n : Nat) : Vector (Option RoundKey) 16 :=
  Vector.ofFn fun i => if i.val < n then some ks[i] else rk[i]

section
variable (ks : Schedule) (rk : Vector (Option RoundKey) 16)

theorem roundKeysBelow_zero : roundKeysBelow ks rk 0 = rk :=
  Vector.ext fun i hi => by simp [roundKeysBelow]

theorem roundKeysBelow_all : roundKeysBelow ks rk 16 = ks.map some :=
  Vector.ext fun i hi => by simp [roundKeysBelow]

/-- Writing round key `n` of the schedule takes the file one round further. -/
theorem roundKeysBelow_succ {n : Nat} (h : n < 16) :
    (roundKeysBelow ks rk n).set (BitVec.ofNat 4 n).toNat (some (scheduleKey ks (BitVec.ofNat 4 n))) (BitVec.isLt _) =
      roundKeysBelow ks rk (n + 1) := by
  have hn : n % 16 = n := Nat.mod_eq_of_lt h
  refine Vector.ext fun i hi => ?_
  by_cases hin : n = i
  · simp [roundKeysBelow, scheduleKey, hn, ← hin]
  · have hlt : i < n ↔ i < n + 1 := by omega
    simp [roundKeysBelow, hn, hin, hlt]

end

/-- A LOADKEY of `key` in progress, before round `n` (R117). -/
def State.keygenAt (s : State) (key : Block) (n : Nat) : State :=
  { s with
    rk := roundKeysBelow (keySchedule key) s.rk n
    keyValid := false
    phase := .keygen
    rnd := BitVec.ofNat 4 n
    c := (keyHalvesAfter key n).c
    d := (keyHalvesAfter key n).d }

theorem acceptLoadkey_eq (key : Block) (s : State) : acceptLoadkey key s = .next (s.keygenAt key 0) := by
  rw [State.keygenAt, roundKeysBelow_zero]
  rfl

/-- A LOADKEY micro-step writes the round key of its round from the halves it has just rotated (R113, R117). -/
theorem State.keygenAt_writeRoundKey (s : State) (key : Block) {n : Nat} (h : n < 16) :
    let t := s.keygenAt key n
    let g := rotateHalves t.keyHalves t.rnd
    (t.setKeyHalves g).writeRoundKey t.rnd (selectRoundKey g) =
      (s.keygenAt key (n + 1)).setRound (BitVec.ofNat 4 n) := by
  have hkey : scheduleKey (keySchedule key) (BitVec.ofNat 4 n) = selectRoundKey (keyHalvesAfter key (n + 1)) := by
    rw [scheduleKey_keySchedule, BitVec.toNat_ofNat, Nat.mod_eq_of_lt h, roundKeyOf]
  simp only [State.keygenAt, ← roundKeysBelow_succ _ _ h, hkey]
  rfl

theorem microStep_keygenAt (s : State) (key : Block) {n : Nat} (h : n < 15) :
    microStep (s.keygenAt key n) = .next (s.keygenAt key (n + 1)) := by
  rw [microStep_of_keygen rfl, keygenStep_of_ne (round_ne_last h), State.keygenAt_writeRoundKey s key (by omega)]
  simp only [State.keygenAt, BitVec.ofNat_add]
  rfl

theorem runPoints_microStep_keygenAt (s : State) (key : Block) {n : Nat} (h : n ≤ 15) :
    runPoints microStep n (s.keygenAt key 0) = .next (s.keygenAt key n) := by
  induction n with
  | zero => rfl
  | succ n ih => rw [runPoints_add (ih (by omega)), runPoints_one, microStep_keygenAt s key h]

/-- Sixteen micro-steps after its acceptance a LOADKEY has done what the command level does in one step (R117). -/
theorem runPoints_microStep_loadkey {s : State} (hp : s.phase = .idle) (key : Block) :
    runPoints microStep 16 (s.keygenAt key 0) = exec (.loadkey key) s := by
  have hlast : microStep (s.keygenAt key 15) = exec (.loadkey key) s := by
    rw [microStep_of_keygen rfl, keygenStep_of_last rfl, State.keygenAt_writeRoundKey s key (by omega), State.keygenAt,
      roundKeysBelow_all]
    exact congrArg _ (State.ext rfl rfl hp.symm rfl rfl rfl rfl rfl rfl rfl rfl rfl rfl)
  rw [runPoints_add (runPoints_microStep_keygenAt s key le_rfl) 1, runPoints_one, hlast]

/-! ## The refinement through the ports -/

/-- If acceptance takes an idle engine into round 0 of a command whose sixteen micro-steps do what the command level does,
then through the ports seventeen points do it too (R12). -/
theorem runPoints_roundStep_eq_step {s u t : State} {w : CommandWord} {i : Instr} {busy rest : List PortInput}
    (hdec : decode w = i) (hp : s.phase = .idle) (hlen : busy.length = 16) (hrst : ∀ q ∈ busy, q.rst = false)
    (hacc : acceptCommand i (s.setPorts (busy ++ rest) none) = .next (u.setPorts (busy ++ rest) none))
    (hb : u.phase ≠ .idle) (hrnd : u.rnd = 0#4) (hrun : runPoints microStep 16 u = exec i (s.setPorts rest none))
    (hexec : exec i (s.setPorts rest none) = .next t) (hin : t.inputs = rest) :
    runPoints roundStep 17 { s with inputs := PortInput.present w :: (busy ++ rest) } =
      step { s with inputs := PortInput.present w :: rest } := by
  have hpoint : ∀ accept is, atPoint accept { s with inputs := PortInput.present w :: is } =
      accept i (s.setPorts is none) :=
    fun accept is => hdec ▸ atPoint_of_accepted (s := { s with inputs := PortInput.present w :: is }) rfl hp rfl accept
  rw [runPoints_succ_of_next (f := roundStep) ((hpoint acceptCommand _).trans hacc), step, hpoint, hexec,
    runPoints_roundStep_of_busy hb (by simp [hrnd]) (hrun.trans hexec) hlen hrst, ← hin]
  rfl

/-! ## Obligations -/

/-- Settles O36: a block command that goes on either raised the error or read a written file, and each of the two cases is
the same for the other engine. -/
theorem responseDependsOnScheduleOnly : Obligations.ResponseDependsOnScheduleOnly := by
  intro dir x s s' t hrk hkv h
  rw [exec_block] at h ⊢
  obtain ⟨hv, rfl⟩ | ⟨hv, ks, hw, rfl⟩ := blockOperation_next h
  · exact ⟨_, blockOperation_of_no_key (hkv ▸ hv) dir x, rfl⟩
  · exact ⟨_, blockOperation_of_written (hkv ▸ hv) (hrk ▸ hw) dir x, rfl⟩

/-- Settles O45: the point of acceptance, then the sixteen micro-steps, which the ports do not enter into. -/
theorem roundLevelRefinesCommandLevel : Obligations.RoundLevelRefinesCommandLevel := by
  intro s w busy rest ⟨hkey, _⟩ hp hlen hrst hw
  let v := s.setPorts rest none
  obtain ⟨key, hdec⟩ | ⟨⟨dir, x, hdec⟩, hv⟩ := hw
  · have hrun := runPoints_microStep_loadkey (s := v) hp key
    exact runPoints_roundStep_eq_step (u := v.keygenAt key 0) hdec hp hlen hrst
      (acceptLoadkey_eq key (s.setPorts (busy ++ rest) none)) nofun rfl hrun rfl rfl
  · rw [State.KeyInv, hp] at hkey
    obtain ⟨key, hs⟩ : s.KeyLoaded := hkey hv
    have hvs : v.rk = (keySchedule key).map some := hs
    have hacc := (acceptCommand_block dir x _).trans
      (acceptBlock_of_key (s := s.setPorts (busy ++ rest) none) hv dir x (keySchedule key))
    have hexec := (exec_block dir x v).trans (blockOperation_of_written (s := v) hv hvs dir x)
    exact runPoints_roundStep_eq_step (u := v.cryptAt dir x (keySchedule key) 0) hdec hp hlen hrst hacc nofun rfl
      (runPoints_microStep_block hvs dir x hp hv) hexec rfl

end Sys2Proof.Machine

/-! SUPPORT. The key and response invariant: every point of either machine goes on and keeps it (R22, R34, R36).  Then
what commands and points leave alone, and the statements of the family 10_state. -/

namespace Sys2Proof.Machine

/-! ## The invariant and the state's operations -/

theorem State.keyInv_of_idle {s : State} (h : s.phase = .idle) : s.KeyInv ↔ (s.keyValid = true → s.KeyLoaded) := by
  rw [State.KeyInv, h]

theorem State.keyInv_of_keygen {s : State} (h : s.phase = .keygen) : s.KeyInv ↔ s.KeygenUnderway := by
  rw [State.KeyInv, h]

theorem State.keyInv_of_rounds {s : State} (h : s.phase = .rounds) : s.KeyInv ↔ s.keyValid = true ∧ s.KeyLoaded := by
  rw [State.KeyInv, h]

/-- A block command in progress over the schedule of one key. -/
theorem State.keyInv_of_loaded {s : State} {key : Block} (hp : s.phase = .rounds) (hv : s.keyValid = true)
    (hk : s.HoldsScheduleOf key) : s.KeyInv := (State.keyInv_of_rounds hp).mpr ⟨hv, key, hk⟩

/-- A response that has just been given is the last of the stream, and the keys do not enter into it. -/
theorem State.respond_inv {s : State} {a : Response} (h : s.KeyInv) : (s.respond a).Inv :=
  ⟨h, fun b hb => by simpa using hb⟩

/-- An engine that has just responded and is idle again, over the schedule of one key (R22). -/
theorem State.respond_inv_of_schedule {s : State} {a : Response} {key : Block} (hp : s.phase = .idle)
    (hk : s.HoldsScheduleOf key) : (s.respond a).Inv :=
  State.respond_inv ((State.keyInv_of_idle hp).mpr fun _ => ⟨key, hk⟩)

theorem State.inv_of_no_response {s : State} (h : s.KeyInv) (ho : s.rsp = none) : s.Inv :=
  ⟨h, fun a ha => by simp [ho] at ha⟩

theorem State.nextPoint_inv {s : State} (h : s.Inv) : s.nextPoint.Inv := State.inv_of_no_response h.left rfl

/-- After a reset event no key is loaded and no response pending (R200). -/
theorem State.resetEvent_inv (s : State) : s.resetEvent.Inv := State.inv_of_no_response nofun rfl

/-- The machine goes on, to a state of the invariant. -/
def GoesOn (o : StepResult) : Prop := ∃ t : State, o = .next t ∧ t.Inv

/-- What goes on to a state of the invariant goes on to no other state. -/
theorem GoesOn.inv {o : StepResult} {t : State} (h : GoesOn o) (ht : o = .next t) : t.Inv := by
  obtain ⟨u, hu, hinv⟩ := h
  exact Host.Outcome.next.inj (hu.symm.trans ht) ▸ hinv

/-! ## A command executed whole -/

theorem block_ne_nop (dir : Dir) (x d : Block) : Instr.block dir x ≠ .nop d := by cases dir <;> nofun

theorem block_ne_loadkey (dir : Dir) (x key : Block) : Instr.block dir x ≠ .loadkey key := by cases dir <;> nofun

/-- Everything a command that goes on can have done. -/
theorem exec_cases {i : Instr} {s t : State} (h : exec i s = .next t) :
    ((∃ d, i = .nop d) ∧ t = s) ∨
    (∃ key, i = .loadkey key ∧ t = ((((s.writeSchedule (keySchedule key)).markKeyLoaded).setKeyHalves
      (keyHalvesAfter key 16)).setRound 15#4).respond (.ok 0#64)) ∨
    (∃ dir x, i = Instr.block dir x ∧ ((s.keyValid = false ∧ t = s.respond .keyNotLoaded) ∨
      (s.keyValid = true ∧ ∃ ks : Schedule, s.rk = ks.map some ∧
        t = (((s.setBlockHalves (blockHalvesAfter dir x ks 16)).setRound 15#4).setDir dir).respond
          (.ok (crypt dir x ks))))) := by
  obtain ⟨d, rfl⟩ | ⟨key, rfl⟩ | ⟨dir, x, rfl⟩ := instr_cases i
  · exact .inl ⟨⟨d, rfl⟩, (Host.Outcome.next.inj h).symm⟩
  · exact .inr (.inl ⟨key, rfl, (Host.Outcome.next.inj h).symm⟩)
  · exact .inr (.inr ⟨dir, x, rfl, blockOperation_next (exec_block dir x s ▸ h)⟩)

/-- An idle engine executes every command to its end and keeps the invariant. -/
theorem exec_goesOn {s : State} (hs : s.Inv) (hp : s.phase = .idle) (i : Instr) : GoesOn (exec i s) := by
  obtain ⟨d, rfl⟩ | ⟨key, rfl⟩ | ⟨dir, x, rfl⟩ := instr_cases i
  · exact ⟨s, rfl, hs⟩
  · exact ⟨_, rfl, State.respond_inv_of_schedule (key := key) hp rfl⟩
  · rw [exec_block]
    cases hv : s.keyValid with
    | false => exact ⟨_, blockOperation_of_no_key hv dir x, State.respond_inv hs.left⟩
    | true =>
      obtain ⟨key, hk⟩ := (State.keyInv_of_idle hp).mp hs.left hv
      exact ⟨_, blockOperation_of_written hv hk dir x, State.respond_inv_of_schedule hp hk⟩

/-! ## A command in progress -/

/-- The round keys a LOADKEY has written before round `n`. -/
theorem State.keygenAt_rkAt (s : State) (key : Block) {n : Nat} {i : RoundIndex} (h : i.toNat < n) :
    (s.keygenAt key n).rkAt i = some (roundKeyOf key i.toNat) := by
  rw [← scheduleKey_keySchedule]
  simp [State.rkAt, State.keygenAt, roundKeysBelow, scheduleKey, h]

theorem State.keygenAt_keyInv (s : State) (key : Block) {n : Nat} (h : n < 16) : (s.keygenAt key n).KeyInv := by
  have hn : (BitVec.ofNat 4 n).toNat = n := by rw [BitVec.toNat_ofNat, Nat.mod_eq_of_lt h]
  refine (State.keyInv_of_keygen rfl).mpr ⟨rfl, key, congrArg (keyHalvesAfter key) hn.symm, fun i hi => ?_⟩
  exact State.keygenAt_rkAt s key (hn ▸ BitVec.lt_def.mp hi)

/-- The invariant describes a LOADKEY in progress whole: its state is the one before round `RND` (R117). -/
theorem State.KeygenUnderway.eq_keygenAt {s : State} (h : s.KeygenUnderway) (hp : s.phase = .keygen) :
    ∃ key, s = s.keygenAt key s.rnd.toNat := by
  obtain ⟨hv, key, hh, hk⟩ := h
  have hrk : s.rk = (s.keygenAt key s.rnd.toNat).rk := rk_ext fun i => by
    by_cases hi : i.toNat < s.rnd.toNat
    · exact (hk i (BitVec.lt_def.mpr hi)).trans (State.keygenAt_rkAt s key hi).symm
    · simp [State.rkAt, State.keygenAt, roundKeysBelow, hi]
  have hrnd : s.rnd = BitVec.ofNat 4 s.rnd.toNat := by simp
  refine ⟨key, ?_⟩
  unfold State.keygenAt at hrk ⊢
  exact State.ext hrk hv hp hrnd rfl rfl rfl (congrArg KeyHalves.c hh) (congrArg KeyHalves.d hh) rfl rfl rfl rfl

/-- The last micro-step of a LOADKEY ends where the command level does in one step (R117). -/
theorem microStep_keygenAt_last (s : State) (key : Block) :
    microStep (s.keygenAt key 15) = exec (.loadkey key) (s.setPhase .idle) := by
  have hrun := runPoints_microStep_loadkey (s := s.setPhase .idle) rfl key
  rwa [runPoints_add (runPoints_microStep_keygenAt _ key le_rfl) 1, runPoints_one] at hrun

/-- A micro-step of a LOADKEY keeps the invariant, while `RK` mixes two schedules and when it holds one again (R34). -/
theorem microStep_goesOn_of_keygen {s : State} (hs : s.Inv) (hp : s.phase = .keygen) :
    GoesOn (microStep s) := by
  obtain ⟨key, hkey⟩ := ((State.keyInv_of_keygen hp).mp hs.left).eq_keygenAt hp
  rw [hkey]
  obtain hn | hn : s.rnd.toNat < 15 ∨ s.rnd.toNat = 15 := by have := s.rnd.isLt; omega
  · exact ⟨_, microStep_keygenAt s key hn, State.keygenAt_keyInv s key (by omega), hs.right⟩
  · rw [hn, microStep_keygenAt_last]
    exact ⟨_, rfl, State.respond_inv_of_schedule (key := key) rfl rfl⟩

/-- A micro-step of a block command leaves the schedule it reads. -/
theorem microStep_goesOn_of_rounds {s : State} (hs : s.Inv) (hp : s.phase = .rounds) :
    GoesOn (microStep s) := by
  obtain ⟨hv, key, hk⟩ := (State.keyInv_of_rounds hp).mp hs.left
  have hread := State.rkAt_of_written hk (keyIndex s.dir s.rnd)
  rw [microStep_of_rounds hp]
  by_cases hn : s.rnd = 15#4
  · exact ⟨_, roundsStep_of_last hread hn, State.respond_inv_of_schedule rfl hk⟩
  · exact ⟨_, roundsStep_of_ne hread hn, State.keyInv_of_loaded hp hv hk, hs.right⟩

theorem microStep_goesOn {s : State} (hs : s.Inv) (hb : s.phase ≠ .idle) : GoesOn (microStep s) := by
  cases hp : s.phase with
  | idle => exact absurd hp hb
  | keygen => exact microStep_goesOn_of_keygen hs hp
  | rounds => exact microStep_goesOn_of_rounds hs hp

/-- The acceptance of a command at the round level keeps the invariant. -/
theorem acceptCommand_goesOn {s : State} (hs : s.Inv) (hp : s.phase = .idle) (i : Instr) :
    GoesOn (acceptCommand i s) := by
  obtain ⟨d, rfl⟩ | ⟨key, rfl⟩ | ⟨dir, x, rfl⟩ := instr_cases i
  · exact ⟨s, rfl, hs⟩
  · exact ⟨_, acceptLoadkey_eq key s, State.keygenAt_keyInv s key (by omega), hs.right⟩
  · rw [acceptCommand_block]
    cases hv : s.keyValid with
    | false => exact ⟨_, requireKey_of_false hv _, State.respond_inv hs.left⟩
    | true =>
      obtain ⟨key, hk⟩ := (State.keyInv_of_idle hp).mp hs.left hv
      exact ⟨_, acceptBlock_of_key hv dir x (keySchedule key), State.keyInv_of_loaded rfl hv hk, hs.right⟩

/-! ## One point of the ports -/

/-- If acceptance goes on and keeps the invariant, so does every point, whatever the host drives. -/
theorem atPoint_goesOn {accept : Instr → State → StepResult}
    (haccept : ∀ {s : State}, s.Inv → s.phase = .idle → ∀ i, GoesOn (accept i s)) {s : State} (hs : s.Inv) :
    GoesOn (atPoint accept s) := by
  have hnext := State.nextPoint_inv hs
  obtain ⟨-, h⟩ | ⟨-, hp, -, h⟩ | ⟨-, -, -, h⟩ | ⟨-, hb, h⟩ := atPoint_cases accept s
  · exact ⟨_, h, State.resetEvent_inv _⟩
  · exact h ▸ haccept hnext hp _
  · exact ⟨_, h, hnext⟩
  · exact h ▸ microStep_goesOn hnext hb

theorem step_goesOn {s : State} (hs : s.Inv) : GoesOn (step s) := atPoint_goesOn exec_goesOn hs

theorem roundStep_goesOn {s : State} (hs : s.Inv) : GoesOn (roundStep s) :=
  atPoint_goesOn acceptCommand_goesOn hs

/-! ## What commands and points do to the keys -/

/-- The host presents a LOADKEY to an idle engine. -/
def State.LoadkeyPresented (s : State) : Prop :=
  s.phase = .idle ∧ s.portInput.cmdValid = true ∧ ∃ key, decode s.portInput.cmd = .loadkey key

/-- Only a LOADKEY touches the keys, and it leaves `KEY_VALID` 1 (R22). -/
theorem exec_keys {i : Instr} {s t : State} (h : exec i s = .next t) :
    (t.rk = s.rk ∧ t.keyValid = s.keyValid) ∨ (t.keyValid = true ∧ ∃ key, i = .loadkey key) := by
  obtain ⟨-, rfl⟩ | ⟨key, rfl, rfl⟩ | ⟨dir, x, rfl, ⟨-, rfl⟩ | ⟨-, ks, -, rfl⟩⟩ := exec_cases h
  · exact .inl ⟨rfl, rfl⟩
  · exact .inr ⟨rfl, key, rfl⟩
  · exact .inl ⟨rfl, rfl⟩
  · exact .inl ⟨rfl, rfl⟩

/-- Only a LOADKEY in progress touches the keys, and `KEY_VALID` at its last round only, which sets it (R22, R117). -/
theorem microStep_keys {s t : State} (hb : s.phase ≠ .idle) (h : microStep s = .next t) :
    (t.rk = s.rk ∧ t.keyValid = s.keyValid) ∨
    (s.phase = .keygen ∧ (t.keyValid = s.keyValid ∨ (s.rnd = 15#4 ∧ t.keyValid = true))) := by
  cases hp : s.phase with
  | idle => exact absurd hp hb
  | keygen =>
    obtain rfl := Host.Outcome.next.inj ((microStep_of_keygen hp).symm.trans h)
    by_cases hn : s.rnd = 15#4
    · exact .inr ⟨rfl, .inr ⟨hn, by rw [keygenStep_of_last hn]; rfl⟩⟩
    · exact .inr ⟨rfl, .inl (by rw [keygenStep_of_ne hn]; rfl)⟩
  | rounds =>
    rw [microStep_of_rounds hp] at h
    cases hk : s.rkAt (keyIndex s.dir s.rnd) with
    | none => simp [roundsStep_of_none hk] at h
    | some k =>
      by_cases hn : s.rnd = 15#4
      · obtain rfl := Host.Outcome.next.inj ((roundsStep_of_last hk hn).symm.trans h)
        exact .inl ⟨rfl, rfl⟩
      · obtain rfl := Host.Outcome.next.inj ((roundsStep_of_ne hk hn).symm.trans h)
        exact .inl ⟨rfl, rfl⟩

/-- Everything a step can do to the keys: a reset, or nothing, or a LOADKEY, in progress or executed whole. -/
theorem step_keys {s t : State} (h : step s = .next t) :
    (s.portInput.rst = true ∧ t.keyValid = false) ∨ (s.portInput.rst = false ∧
      ((t.rk = s.rk ∧ t.keyValid = s.keyValid) ∨
       (s.phase = .keygen ∧ (t.keyValid = s.keyValid ∨ (s.rnd = 15#4 ∧ t.keyValid = true))) ∨
       (s.LoadkeyPresented ∧ t.keyValid = true))) := by
  obtain ⟨hr, ha⟩ | ⟨hr, hp, hv, ha⟩ | ⟨hr, -, -, ha⟩ | ⟨hr, hb, ha⟩ := atPoint_cases exec s
  · obtain rfl := Host.Outcome.next.inj (ha.symm.trans h)
    exact .inl ⟨hr, rfl⟩
  · obtain hkeep | ⟨hset, hload⟩ := exec_keys (ha.symm.trans h)
    · exact .inr ⟨hr, .inl hkeep⟩
    · exact .inr ⟨hr, .inr (.inr ⟨⟨hp, hv, hload⟩, hset⟩)⟩
  · obtain rfl := Host.Outcome.next.inj (ha.symm.trans h)
    exact .inr ⟨hr, .inl ⟨rfl, rfl⟩⟩
  · obtain hkeep | hgen := microStep_keys (s := s.nextPoint) hb (ha.symm.trans h)
    · exact .inr ⟨hr, .inl hkeep⟩
    · exact .inr ⟨hr, .inr (.inl hgen)⟩

/-! ## Reading an unwritten round key -/

/-- The whole schedule reads as far as the first unwritten round key in the order of the direction (R53). -/
theorem readSchedule_of_unwritten {s : State} {dir : Dir} {i : RoundIndex} (hi : s.rkAt (keyIndex dir i) = none)
    (hbelow : ∀ j : RoundIndex, j < i → s.rkAt (keyIndex dir j) ≠ none) :
    s.readSchedule dir = .error (.unwrittenRoundKey (keyIndex dir i)) := by
  have hfind : (List.range 16).find? ((fun k => (s.rkAt k).isNone) ∘ fun n => keyIndex dir (BitVec.ofNat 4 n)) =
      some i.toNat := by
    refine List.find?_range_eq_some.mpr ⟨by simp [hi], List.mem_range.mpr i.isLt, fun j hj => ?_⟩
    have hlt : BitVec.ofNat 4 j < i := by
      rw [BitVec.lt_def, BitVec.toNat_ofNat]
      exact (Nat.mod_le _ _).trans_lt hj
    simpa [Option.isSome_iff_ne_none] using hbelow _ hlt
  rw [State.readSchedule, keyReadOrder, List.find?_map, hfind]
  simp

/-! ## A busy engine that is not reset -/

/-- With no reset among the next `m` inputs there is none at a point before point `m`. -/
theorem State.portInput_rst_of_take {s t : State} {m n : Nat} (h : ∀ q ∈ s.inputs.take m, q.rst = false) (hn : n < m)
    (ht : t.inputs = s.inputs.drop n) : t.portInput.rst = false := by
  rw [State.portInput, ht]
  cases hd : s.inputs.drop n with
  | nil => rfl
  | cons q qs =>
    have hq : s.inputs[n]? = some q := by rw [← List.head?_drop, hd]; rfl
    exact h q (List.mem_of_getElem? ((List.getElem?_take_of_lt hn).trans hq))

/-- A point of a busy engine that meets the invariant: it counts the round up in its phase, or the round is the last and it
finishes with one response. -/
theorem roundStep_of_busy_inv {s : State} (hs : s.Inv) (hb : s.phase ≠ .idle) (hr : s.portInput.rst = false) :
    (s.rnd ≠ 15#4 ∧ ∃ t : State, roundStep s = .next t ∧ t.Inv ∧ t.phase = s.phase ∧ t.rnd.toNat = s.rnd.toNat + 1 ∧
      t.responses = s.responses ∧ t.inputs = s.inputs.drop 1) ∨
    (s.rnd = 15#4 ∧ ∃ (t : State) (a : Response), roundStep s = .next t ∧ t.phase = .idle ∧ t.rnd = 15#4 ∧
      t.responses = s.responses ++ [a]) := by
  have hpoint : roundStep s = microStep s.nextPoint := atPoint_of_busy hr hb acceptCommand
  obtain ⟨v, hv, hinv⟩ := roundStep_goesOn hs
  obtain ⟨hn, t, ht, hphase, hrnd, -, -, hresp, hin, -⟩ | ⟨hn, t, a, ht, hphase, hrnd, -, hresp, -⟩ | ⟨-, -, hfault⟩ :=
    microStep_cases (s := s.nextPoint) hb
  · obtain rfl := Host.Outcome.next.inj ((hpoint.trans ht).symm.trans hv)
    exact .inl ⟨hn, t, hv, hinv, hphase, hrnd ▸ toNat_succ_of_ne hn, hresp, hin⟩
  · exact .inr ⟨hn, t.respond a, a, hpoint.trans ht, hphase, hrnd.trans hn, congrArg (· ++ [a]) hresp⟩
  · have hstop : microStep s.nextPoint = _ := hfault (s.inputs.drop 1) none
    simp [← hpoint, hv] at hstop

/-- Before its last round is done, `n` points take a busy engine `n` rounds further (R24, R208). -/
theorem runPoints_roundStep_of_busy_inv {s : State} (hs : s.Inv) (hb : s.phase ≠ .idle)
    (hr : ∀ q ∈ s.inputs.take (16 - s.rnd.toNat), q.rst = false) {n : Nat} (hn : n < 16 - s.rnd.toNat) :
    ∃ u, runPoints roundStep n s = .next u ∧ u.Inv ∧ u.phase = s.phase ∧ u.rnd.toNat = s.rnd.toNat + n ∧
      u.responses = s.responses ∧ u.inputs = s.inputs.drop n := by
  induction n with
  | zero => exact ⟨s, rfl, hs, rfl, rfl, rfl, rfl⟩
  | succ n ih =>
    obtain ⟨u, hu, hinv, hphase, hrnd, hresp, hin⟩ := ih (by omega)
    have hrst := State.portInput_rst_of_take hr (by omega) hin
    obtain ⟨-, v, hv, hvinv, hvphase, hvrnd, hvresp, hvin⟩ | ⟨hlast, -⟩ := roundStep_of_busy_inv hinv (hphase ▸ hb) hrst
    · refine ⟨v, ?_, hvinv, hvphase.trans hphase, by omega, hvresp.trans hresp, ?_⟩
      · rw [runPoints_add hu, runPoints_one, hv]
      · rw [hvin, hin, List.drop_drop]
    · have h15 : u.rnd.toNat = 15 := congrArg BitVec.toNat hlast
      omega

/-! ## Obligations -/

/-- Settles O48: a step from the invariant goes on to a state of the invariant, and so to no other. -/
theorem stepKeepsInvariant : Obligations.StepKeepsInvariant :=
  fun _ _ hs h => (step_goesOn hs).inv h

/-- Settles O49: likewise at the round level, where a LOADKEY in progress is `State.keygenAt` of its key. -/
theorem roundStepKeepsInvariant : Obligations.RoundStepKeepsInvariant :=
  fun _ _ hs h => (roundStep_goesOn hs).inv h

/-- Settles O30: the command reads the schedule before anything else. -/
theorem blockCommandStopsOnUnwrittenKey : Obligations.BlockCommandStopsOnUnwrittenKey := by
  intro dir x s i hv hi hbelow
  rw [exec_block, blockOperation, requireKey_of_true hv, readSchedule_of_unwritten hi hbelow]

/-- Settles O34: in each case of `exec_cases` the frame is read off the next state. -/
theorem commandFrames : Obligations.CommandFrames := by
  intro i s t h
  obtain ⟨⟨d, rfl⟩, rfl⟩ | ⟨key, rfl, rfl⟩ | ⟨dir, x, rfl, ⟨-, rfl⟩ | ⟨-, ks, -, rfl⟩⟩ := exec_cases h
  · exact ⟨rfl, rfl, rfl, fun _ => rfl, fun _ => ⟨rfl, rfl, rfl, rfl⟩, nofun⟩
  · exact ⟨rfl, rfl, rfl, nofun, fun hne => absurd rfl (hne key), fun _ => ⟨rfl, rfl, rfl⟩⟩
  · exact ⟨rfl, rfl, rfl, fun ⟨d, hd⟩ => absurd hd (block_ne_nop dir x d), fun _ => ⟨rfl, rfl, rfl, rfl⟩,
      fun _ => ⟨rfl, rfl, rfl⟩⟩
  · exact ⟨rfl, rfl, rfl, fun ⟨d, hd⟩ => absurd hd (block_ne_nop dir x d), fun _ => ⟨rfl, rfl, rfl, rfl⟩,
      fun ⟨key, hkey⟩ => absurd hkey (block_ne_loadkey dir x key)⟩

/-- Settles O42: each change that is not a reset's is ruled out, or is a LOADKEY's, in each case of `step_keys`. -/
theorem onlyLoadkeyAndResetChangeKeys : Obligations.OnlyLoadkeyAndResetChangeKeys := by
  intro s t h
  obtain ⟨hr, hkv⟩ | ⟨hr, ⟨hrk, hkv⟩ | ⟨hp, hkv | ⟨hrnd, hkv⟩⟩ | ⟨hload, hkv⟩⟩ := step_keys h
  · exact ⟨fun _ _ => hr, fun _ ht => by simp [hkv] at ht, fun _ => .inl hr⟩
  · exact ⟨fun hs ht => by simp [← hkv, ht] at hs, fun hs ht => by simp [← hkv, ht] at hs, fun hne => absurd hrk hne⟩
  · exact ⟨fun hs ht => by simp [← hkv, ht] at hs, fun hs ht => by simp [← hkv, ht] at hs, fun _ => .inr (.inl hp)⟩
  · exact ⟨fun _ ht => by simp [hkv] at ht, fun _ _ => ⟨hr, .inl ⟨hp, hrnd⟩⟩, fun _ => .inr (.inl hp)⟩
  · exact ⟨fun _ ht => by simp [hkv] at ht, fun _ _ => ⟨hr, .inr hload⟩, fun _ => .inr (.inr hload)⟩

/-- Settles O46: `n` points count `n` rounds up, and the point after the last count finishes. -/
theorem busyEngineReturnsToIdle : Obligations.BusyEngineReturnsToIdle := by
  intro s hs hb hr
  refine ⟨fun n hn => ?_, ?_⟩
  · obtain ⟨u, hu, -, hphase, hrnd, hresp, -⟩ := runPoints_roundStep_of_busy_inv hs hb hr hn
    exact ⟨u, hu, hphase, hrnd, hresp⟩
  · have hlt := s.rnd.isLt
    obtain ⟨u, hu, hinv, hphase, hrnd, hresp, hin⟩ :=
      runPoints_roundStep_of_busy_inv hs hb hr (n := 15 - s.rnd.toNat) (by omega)
    have hrst := State.portInput_rst_of_take hr (by omega) hin
    obtain ⟨hne, -⟩ | ⟨-, t, a, ht, hidle, hlast, htresp⟩ := roundStep_of_busy_inv hinv (hphase ▸ hb) hrst
    · exact absurd (BitVec.eq_of_toNat_eq (show u.rnd.toNat = 15 by omega)) hne
    · refine ⟨t, a, ?_, hidle, hlast, hresp ▸ htresp⟩
      rw [show 16 - s.rnd.toNat = 15 - s.rnd.toNat + 1 by omega, runPoints_add hu, runPoints_one, ht]

/-- Settles O50: both machines go on, and to a state of the invariant again. -/
theorem engineNeverStops : Obligations.EngineNeverStops := by
  intro s hs
  obtain ⟨t, ht, -⟩ := step_goesOn hs
  obtain ⟨u, hu, -⟩ := roundStep_goesOn hs
  exact ⟨⟨t, ht⟩, u, hu⟩

/-- Settles O47: `KEY_VALID` is 0 and no response is pending. -/
theorem resetStateMeetsInvariant : Obligations.ResetStateMeetsInvariant := State.inv_of_no_response nofun rfl

end Sys2Proof.Machine

/-! SUPPORT. A run of commands, command by command: a LOADKEY puts its schedule into force, and without one every command
is answered under the schedule in force (R60, R66).  And the two directions of the block transform undo each other (R148).
Then the statements of the family 20_memory. -/

namespace Sys2Proof.Machine

/-! ## The two directions undo each other -/

theorem permute_fp_permute_ip (v : Block) : permute 64 engineTables.fp (permute 64 engineTables.ip v) = v :=
  ext_bitAt fun j hj => by rw [bitAt_permute_permute _ _ _ hj (fp_in_range j hj), ip_at_fp j hj]; rfl

theorem permute_ip_permute_fp (v : Block) : permute 64 engineTables.ip (permute 64 engineTables.fp v) = v :=
  ext_bitAt fun j hj => by rw [bitAt_permute_permute _ _ _ hj (ip_in_range j hj), fp_at_ip j hj]; rfl

/-- The halves of an output block, taken in again, are the last halves exchanged (R143). -/
theorem initialBlockHalves_finalBlock (h : BlockHalves) : initialBlockHalves (finalBlock h) = h.swap := by
  rw [initialBlockHalves, finalBlock, permute_ip_permute_fp]
  exact congrArg₂ BlockHalves.mk (firstBits_append h.r h.l) (lastBits_append h.r h.l)

theorem finalBlock_initialBlockHalves_swap (x : Block) : finalBlock (initialBlockHalves x).swap = x := by
  have hjoin := firstBits_append_lastBits (m := 32) (n := 32) (permute 64 engineTables.ip x)
  exact (congrArg (permute 64 engineTables.fp) hjoin).trans (permute_fp_permute_ip x)

/-- The other direction reads the round keys in the reverse order (R142). -/
theorem keyIndex_of_ne {dir dir' : Dir} (h : dir ≠ dir') (i : RoundIndex) :
    keyIndex dir' i = keyIndex dir (15#4 - i) := by
  cases dir <;> cases dir'
  · exact absurd rfl h
  · rfl
  · exact (keyIndex_keyIndex .dec i).symm
  · exact absurd rfl h

/-- Round by round, the other direction goes back through the exchanged halves of the first. -/
theorem blockHalvesAfter_crypt {dir dir' : Dir} (h : dir ≠ dir') (x : Block) (ks : Schedule) {n : Nat} (hn : n ≤ 16) :
    blockHalvesAfter dir' (crypt dir x ks) ks n = (blockHalvesAfter dir x ks (16 - n)).swap := by
  induction n with
  | zero => exact initialBlockHalves_finalBlock _
  | succ n ih =>
    have hround : 16 - n = 16 - (n + 1) + 1 := by omega
    have hkey : keyIndex dir' (BitVec.ofNat 4 n) = keyIndex dir (BitVec.ofNat 4 (16 - (n + 1))) := by
      rw [keyIndex_of_ne h, show 15#4 - BitVec.ofNat 4 n = BitVec.ofNat 4 (16 - (n + 1)) by bv_omega]
    rw [blockHalvesAfter_succ, ih (by omega), hround, blockHalvesAfter_succ, hkey, feistelRound_swap]

/-- Each direction of the block transform undoes the other, for any sixteen round keys (R148). -/
theorem crypt_crypt {dir dir' : Dir} (h : dir ≠ dir') (x : Block) (ks : Schedule) :
    crypt dir' (crypt dir x ks) ks = x := by
  rw [crypt, blockHalvesAfter_crypt h x ks le_rfl]
  exact finalBlock_initialBlockHalves_swap x

/-! ## A run of commands, one command after another -/

/-- The decoder gives back the command that was encoded (R70, R71). -/
@[simp] theorem decode_encode (i : Instr) : decode (encode i) = i := by
  obtain ⟨-, hop, hdata⟩ : Laws.EncodingRow.Statement i := by
    cases i with
    | nop d => exact Laws.EncodingRow.nop d
    | loadkey d => exact Laws.EncodingRow.loadkey d
    | encrypt d => exact Laws.EncodingRow.encrypt d
    | decrypt d => exact Laws.EncodingRow.decrypt d
  rw [decode, hop, hdata]
  cases i <;> rfl

/-- An idle engine runs the first command whole and is idle again, and the others run from there. -/
theorem runCommands_cons {s t : State} {i : Instr} {is : List Instr} (hp : s.phase = .idle)
    (h : exec i (s.nextPoint.drive is) = .next t) :
    t.phase = .idle ∧ runCommands (i :: is) s = runCommands is t := by
  obtain ⟨hphase, hin, -⟩ := commandFrames i _ t h
  have hstep : step (s.drive (i :: is)) = .next t := by rw [step_drive_cons hp, decode_encode, ← h]; rfl
  have hdrive : t.drive is = t := by rw [State.drive, ← State.drive_inputs s.nextPoint is, ← hin]
  refine ⟨hphase.trans hp, ?_⟩
  rw [runCommands, List.length_cons, runPoints_succ_of_next hstep, runCommands, hdrive]

/-! ## The schedule in force -/

/-- The schedule in force: none with `KEY_VALID` 0, else the one `RK` holds (R22). -/
def State.HasInForce (s : State) : Option Schedule → Prop
  | none => s.keyValid = false
  | some ks => s.keyValid = true ∧ s.rk = ks.map some

/-- The response of a command, whatever schedule is in force: `responseUnder` it, and with none the error to a block
command (R182). -/
def responseInForce : Option Schedule → Instr → Option Response
  | some ks, i => responseUnder ks i
  | none, .nop _ => none
  | none, .loadkey _ => some (.ok 0#64)
  | none, .encrypt _ => some .keyNotLoaded
  | none, .decrypt _ => some .keyNotLoaded

@[simp] theorem responseInForce_nop (o : Option Schedule) (d : Block) : responseInForce o (.nop d) = none := by
  cases o <;> rfl

@[simp] theorem responseInForce_none_block (dir : Dir) (x : Block) :
    responseInForce none (Instr.block dir x) = some .keyNotLoaded := by
  cases dir <;> rfl

/-- A block command is always answered. -/
theorem responseInForce_block (o : Option Schedule) (dir : Dir) (x : Block) :
    ∃ a, responseInForce o (Instr.block dir x) = some a := by
  cases o with
  | none => exact ⟨_, responseInForce_none_block dir x⟩
  | some ks => exact ⟨_, responseUnder_block ks dir x⟩

theorem State.HasInForce.congr {s t : State} {o : Option Schedule} (h : s.HasInForce o) (hrk : t.rk = s.rk)
    (hkv : t.keyValid = s.keyValid) : t.HasInForce o := by
  cases o with
  | none => exact hkv.trans h
  | some ks => exact ⟨hkv.trans h.left, hrk.trans h.right⟩

/-- An idle engine of the invariant has some schedule in force, or none. -/
theorem State.Inv.hasInForce {s : State} (h : s.Inv) (hp : s.phase = .idle) : ∃ o, s.HasInForce o := by
  cases hv : s.keyValid with
  | false => exact ⟨none, hv⟩
  | true =>
    obtain ⟨key, hk⟩ := (State.keyInv_of_idle hp).mp h.left hv
    exact ⟨some (keySchedule key), hv, hk⟩

/-- A command other than LOADKEY is answered under the schedule in force, and leaves the keys. -/
theorem exec_of_hasInForce {s : State} {o : Option Schedule} (ho : s.HasInForce o) {i : Instr}
    (hi : ∀ k, i ≠ .loadkey k) :
    ∃ t, exec i s = .next t ∧ t.responses = s.responses ++ (responseInForce o i).toList ∧
      t.rk = s.rk ∧ t.keyValid = s.keyValid := by
  obtain ⟨d, rfl⟩ | ⟨key, rfl⟩ | ⟨dir, x, rfl⟩ := instr_cases i
  · exact ⟨s, rfl, by simp, rfl, rfl⟩
  · exact absurd rfl (hi key)
  · rw [exec_block]
    cases o with
    | none => exact ⟨_, blockOperation_of_no_key ho dir x, by simp, rfl, rfl⟩
    | some ks => exact ⟨_, blockOperation_of_written ho.left ho.right dir x, by simp [responseInForce], rfl, rfl⟩

/-- So is every command of a run without a LOADKEY (R60, R66). -/
theorem runCommands_of_hasInForce {s : State} {o : Option Schedule} (hp : s.phase = .idle) (ho : s.HasInForce o)
    {is : List Instr} (his : ∀ i ∈ is, ∀ k, i ≠ .loadkey k) :
    ∃ t, runCommands is s = .next t ∧ t.responses = s.responses ++ is.filterMap (responseInForce o) ∧
      t.rk = s.rk ∧ t.keyValid = s.keyValid := by
  induction is generalizing s with
  | nil => exact ⟨s.drive [], rfl, by simp, rfl, rfl⟩
  | cons i is ih =>
    obtain ⟨hi, his'⟩ := List.forall_mem_cons.mp his
    obtain ⟨u, hu, huresp, hurk, hukv⟩ :=
      exec_of_hasInForce (s := s.nextPoint.drive is) (ho.congr rfl rfl) hi
    obtain ⟨hidle, hrun⟩ := runCommands_cons hp hu
    obtain ⟨t, ht, htresp, htrk, htkv⟩ := ih hidle (ho.congr hurk hukv) his'
    refine ⟨t, hrun.trans ht, ?_, htrk.trans hurk, htkv.trans hukv⟩
    cases ha : responseInForce o i <;> simp [htresp, huresp, ha]

/-- A LOADKEY at the head of a run responds with zero and puts its schedule into force, whatever was (R116). -/
theorem runCommands_loadkey {s : State} (hp : s.phase = .idle) (key : Block) (is : List Instr) :
    ∃ t, runCommands (.loadkey key :: is) s = runCommands is t ∧ t.phase = .idle ∧
      t.HasInForce (some (keySchedule key)) ∧ t.responses = s.responses ++ [.ok 0#64] := by
  obtain ⟨hidle, hrun⟩ := runCommands_cons (is := is) hp (show exec (.loadkey key) _ = _ from rfl)
  exact ⟨_, hrun, hidle, ⟨rfl, rfl⟩, rfl⟩

/-- What follows a LOADKEY is answered under its schedule, up to the next LOADKEY (R60). -/
theorem runCommands_loadkey_cons {s : State} (hp : s.phase = .idle) (key : Block) {is : List Instr}
    (his : ∀ i ∈ is, ∀ k, i ≠ .loadkey k) :
    ∃ t, runCommands (.loadkey key :: is) s = .next t ∧
      t.responses = s.responses ++ .ok 0#64 :: is.filterMap (responseUnder (keySchedule key)) ∧
      t.HoldsScheduleOf key ∧ t.keyValid = true := by
  obtain ⟨u, hrun, hidle, ⟨hkv, hrk⟩, huresp⟩ := runCommands_loadkey hp key is
  obtain ⟨t, ht, htresp, htrk, htkv⟩ := runCommands_of_hasInForce (o := some _) hidle ⟨hkv, hrk⟩ his
  refine ⟨t, hrun.trans ht, ?_, htrk.trans hrk, htkv.trans hkv⟩
  rw [htresp, huresp, List.append_assoc]
  rfl

/-! ## Obligations -/

/-- Settles O35: everything a command writes, but the response stream, it writes again with the same values. -/
theorem commandsRepeat : Obligations.CommandsRepeat := by
  refine ⟨fun key s t h => ?_, fun dir x s t h => ?_⟩
  · obtain rfl := Host.Outcome.next.inj h
    rfl
  · rw [exec_block] at h ⊢
    obtain ⟨hv, rfl⟩ | ⟨hv, ks, hw, rfl⟩ := blockOperation_next h
    · exact ⟨_, rfl, blockOperation_of_no_key (s := s.respond .keyNotLoaded) hv dir x⟩
    · refine ⟨_, rfl, blockOperation_of_written ?_ ?_ dir x⟩
      exacts [hv, hw]

/-- Settles O53: the first LOADKEY of the four commands is a command before the last one like any other. -/
theorem lastLoadkeyGoverns : Obligations.LastLoadkeyGoverns := by
  refine ⟨fun s key is hp his => runCommands_loadkey_cons hp key his, fun s key key' x hp => ?_⟩
  obtain ⟨u, hrun, hidle, -, huresp⟩ :=
    runCommands_loadkey hp key [.loadkey key', .encrypt x, .decrypt (crypt .enc x (keySchedule key'))]
  obtain ⟨t, ht, htresp, -⟩ := runCommands_loadkey_cons (is := [.encrypt x, .decrypt (crypt .enc x (keySchedule key'))])
    hidle key' (by simp)
  refine ⟨t, hrun.trans ht, ?_⟩
  simp [htresp, huresp, responseUnder, crypt_crypt (dir := .enc) (dir' := .dec) nofun]

/-- Settles O54: in either order both commands are answered under the schedule in force at the start. -/
theorem blockCommandsAreIndependent : Obligations.BlockCommandsAreIndependent := by
  intro s dir dir' x y hs hp
  obtain ⟨o, ho⟩ := hs.hasInForce hp
  obtain ⟨a, ha⟩ := responseInForce_block o dir x
  obtain ⟨b, hb⟩ := responseInForce_block o dir' y
  obtain ⟨t, ht, htresp, htrk, htkv⟩ :=
    runCommands_of_hasInForce (is := [Instr.block dir x, Instr.block dir' y]) hp ho (by simp [block_ne_loadkey])
  obtain ⟨t', ht', htresp', htrk', htkv'⟩ :=
    runCommands_of_hasInForce (is := [Instr.block dir' y, Instr.block dir x]) hp ho (by simp [block_ne_loadkey])
  exact ⟨a, b, t, t', ht, ht', by simp [htresp, ha, hb], by simp [htresp', ha, hb], htrk.trans htrk'.symm,
    htkv.trans htkv'.symm⟩

end Sys2Proof.Machine

/-! SUPPORT. The command and the response word taken apart into their fields, which decoding and encoding go back and
forth between (R70 to R74); the text of a command read back (R77); and a run of commands driven to its end (R80, R210).
Then the statements of the family 30_encoding. -/

namespace Sys2Proof.Machine

/-! ## Words and their fields -/

/-- A word is put together from its high and its low field, and from no others (R9). -/
theorem eq_append_iff {m n : Nat} {w : BitVec (m + n)} {a : BitVec m} {b : BitVec n} :
    w = a ++ b ↔ w.extractLsb' n m = a ∧ w.extractLsb' 0 n = b := by
  constructor
  · rintro rfl
    exact ⟨BitVec.extractLsb'_append_eq_left, BitVec.extractLsb'_append_eq_right⟩
  · rintro ⟨rfl, rfl⟩
    rw [BitVec.extractLsb'_append_extractLsb'_eq_extractLsb' (by omega), BitVec.extractLsb'_eq_self]

/-- The word of `i` is the one whose two fields are the opcode and the operand of `i` (R70). -/
theorem eq_encode_iff {w : CommandWord} {i : Instr} : w = encode i ↔ opField w = opcode i ∧ dataField w = operand i :=
  eq_append_iff (m := 2) (n := 64)

/-- `op` has four values, each the opcode of a command with any operand (R71). -/
theorem exists_instr_of_fields (op : BitVec 2) (x : Block) : ∃ i, opcode i = op ∧ operand i = x := by
  have hop : op = 0b00#2 ∨ op = 0b01#2 ∨ op = 0b10#2 ∨ op = 0b11#2 := by
    revert op
    decide
  obtain rfl | rfl | rfl | rfl := hop
  · exact ⟨.nop x, rfl, rfl⟩
  · exact ⟨.loadkey x, rfl, rfl⟩
  · exact ⟨.encrypt x, rfl, rfl⟩
  · exact ⟨.decrypt x, rfl, rfl⟩

/-- Every command word is the word of a command (R74). -/
theorem exists_eq_encode (w : CommandWord) : ∃ i, w = encode i := by
  obtain ⟨i, hop, hdata⟩ := exists_instr_of_fields (opField w) (dataField w)
  exact ⟨i, eq_encode_iff.mpr ⟨hop.symm, hdata.symm⟩⟩

@[simp] theorem encode_decode (w : CommandWord) : encode (decode w) = w := by
  obtain ⟨i, rfl⟩ := exists_eq_encode w
  rw [decode_encode]

/-- What the decoder answers is told by the two fields alone (R70, R71). -/
theorem decode_eq_iff {w : CommandWord} {i : Instr} : decode w = i ↔ opField w = opcode i ∧ dataField w = operand i := by
  rw [← eq_encode_iff]
  exact ⟨fun h => h ▸ (encode_decode w).symm, fun h => h ▸ decode_encode i⟩

theorem operand_decode (w : CommandWord) : operand (decode w) = dataField w := (decode_eq_iff.mp rfl).right.symm

theorem encode_and_opMask (i : Instr) : encode i &&& opMask = opMatch i := by
  cases i with
  | nop d => exact (Laws.EncodingRow.nop d).left
  | loadkey d => exact (Laws.EncodingRow.loadkey d).left
  | encrypt d => exact (Laws.EncodingRow.encrypt d).left
  | decrypt d => exact (Laws.EncodingRow.decrypt d).left

/-- Every operand of every command is legal (R74, R75). -/
theorem Instr.wellFormed_eq_true (i : Instr) : i.wellFormed = true := by cases i <;> rfl

/-- `cmd[65]` and `cmd[64]` are the two bits of `op`: 1 and the direction, for a block command (R71). -/
theorem opField_of_block {w : CommandWord} (h : w.getLsbD 65 = true) :
    opField w = if w.getLsbD 64 then 0b11#2 else 0b10#2 := by
  have hbits : ∀ op : BitVec 2, op.getLsbD 1 = true → op = if op.getLsbD 0 then 0b11#2 else 0b10#2 := by decide
  have hhigh : (opField w).getLsbD 1 = w.getLsbD 65 := by simp [opField]
  have hlow : (opField w).getLsbD 0 = w.getLsbD 64 := by simp [opField]
  rw [← hlow]
  exact hbits _ (hhigh.trans h)

/-- Index `i` of a 64-bit field at the low end of a word is bit `63 − i` of the word (R8, R72). -/
theorem bitAt_lowField {n : Nat} (w : BitVec n) {i : Nat} (h : i < 64) :
    bitAt (w.extractLsb' 0 64) i = w.getLsbD (63 - i) := by
  have hlt : 63 - i < 64 := by omega
  simp [bitAt, BitVec.getMsbD, h, hlt]

/-! ## The response word -/

theorem eq_ofBool_iff (b : BitVec 1) (c : Bool) : b = BitVec.ofBool c ↔ b.getLsbD 0 = c := by
  revert b c
  decide

/-- The one-bit field at position 64 is the bit `rsp[64]` (R73). -/
theorem errField_eq_iff (w : ResponseWord) (c : Bool) : w.extractLsb' 64 1 = BitVec.ofBool c ↔ w.getLsbD 64 = c := by
  rw [eq_ofBool_iff]
  simp

theorem isWord_ok_iff {data : Block} {w : ResponseWord} :
    (Response.ok data).isWord w = true ↔ w.getLsbD 64 = false ∧ w.extractLsb' 0 64 = data := by
  rw [← errField_eq_iff, ← eq_append_iff]
  exact beq_iff_eq

theorem isWord_keyNotLoaded_iff {w : ResponseWord} : Response.keyNotLoaded.isWord w = true ↔ w.getLsbD 64 = true := by
  rw [← errField_eq_iff]
  exact beq_iff_eq

/-! ## Hexadecimal digits read back -/

theorem hexValue_upperDigit : ∀ d, d < 16 → hexValue (upperDigits.getD d '0') = some d := by decide

theorem upperDigit_mem : ∀ d, d < 16 → upperDigits.getD d '0' ∈ upperDigits := by decide

@[simp] theorem length_hexDigits (n v : Nat) : (hexDigits n v).length = n := by
  induction n generalizing v with
  | zero => rfl
  | succ n ih => simp [hexDigits, ih]

theorem mem_upperDigits_of_mem_hexDigits {n v : Nat} {c : Char} (h : c ∈ hexDigits n v) : c ∈ upperDigits := by
  induction n generalizing v with
  | zero => simp [hexDigits] at h
  | succ n ih =>
    obtain hc | hc := List.mem_append.mp h
    · exact ih hc
    · obtain rfl := List.mem_singleton.mp hc
      exact upperDigit_mem _ (Nat.mod_lt _ (by omega))

/-- Reading the `n` digits of `v` after `u` gives the number `u` followed by the last `n` digits of `v`. -/
theorem readHex_hexDigits_append (u n v : Nat) (cs : List Char) :
    readHex u (hexDigits n v ++ cs) = readHex (16 ^ n * u + v % 16 ^ n) cs := by
  induction n generalizing v cs with
  | zero => simp [hexDigits, Nat.mod_one]
  | succ n ih =>
    have hdigit := hexValue_upperDigit (v % 16) (Nat.mod_lt _ (by omega))
    have hvalue : 16 * (16 ^ n * u + v / 16 % 16 ^ n) + v % 16 = 16 ^ (n + 1) * u + v % 16 ^ (n + 1) := by
      rw [pow_succ', Nat.mod_mul]
      ring
    rw [hexDigits, List.append_assoc, ih, List.singleton_append, readHex, hdigit, ← hvalue]

theorem readOperand_blockText (x : Block) : readOperand (blockText x) = some x := by
  have hread : readHex 0 (hexDigits 16 x.toNat) = some x.toNat := by
    have hlt : x.toNat < 16 ^ 16 := x.isLt
    have h := readHex_hexDigits_append 0 16 x.toNat []
    rwa [List.append_nil, Nat.mul_zero, Nat.zero_add, Nat.mod_eq_of_lt hlt] at h
  simp [readOperand, blockText, hread]

/-! ## The words of a line -/

/-- Neither a separator nor the start of a comment. -/
def isPlain (c : Char) : Bool := c != ' ' && c != '\t' && c != ';'

theorem blockText_plain (x : Block) : ∀ c ∈ blockText x, isPlain c = true := by
  have hdigits : ∀ c ∈ upperDigits, isPlain c = true := List.all_eq_true.mp (by decide)
  rw [blockText, List.forall_mem_cons, List.forall_mem_cons]
  exact ⟨rfl, rfl, fun c hc => hdigits c (mem_upperDigits_of_mem_hexDigits hc)⟩

/-- Plain characters join the word that is being read. -/
theorem splitWords_plain_append {cs : List Char} (h : ∀ c ∈ cs, isPlain c = true) (word rest : List Char) :
    splitWords word (cs ++ rest) = splitWords (word ++ cs) rest := by
  induction cs generalizing word with
  | nil => simp
  | cons c cs ih =>
    obtain ⟨hc, hcs⟩ := List.forall_mem_cons.mp h
    have hsep : ¬(c = ' ' ∨ c = '\t') := by
      rintro (rfl | rfl) <;> exact absurd hc (by decide)
    rw [List.cons_append, splitWords, if_neg hsep, ih hcs, List.append_assoc, List.singleton_append]

/-- Two plain words with a space between them are the two words of their line. -/
theorem splitWords_two {m x : List Char} (hm : ∀ c ∈ m, isPlain c = true) (hx : ∀ c ∈ x, isPlain c = true)
    (hm0 : m ≠ []) (hx0 : x ≠ []) : splitWords [] (m ++ ' ' :: x) = [m, x] := by
  have hlast : splitWords [] x = [x] := by
    have h := splitWords_plain_append hx [] []
    simpa [splitWords, hx0] using h
  rw [splitWords_plain_append hm, splitWords]
  simp [hm0, hlast]

/-- Nothing of such a line is comment. -/
theorem takeWhile_two {m x : List Char} (hm : ∀ c ∈ m, isPlain c = true) (hx : ∀ c ∈ x, isPlain c = true) :
    (m ++ ' ' :: x).takeWhile (fun c => c ≠ ';') = m ++ ' ' :: x := by
  have hplain : ∀ c, isPlain c = true → c ≠ ';' := by
    rintro c hc rfl
    exact absurd hc (by decide)
  rw [List.takeWhile_eq_self_iff]
  intro c hc
  obtain hc | hc | hc : c ∈ m ∨ c = ' ' ∨ c ∈ x := by simpa using hc
  · simpa using hplain c (hm c hc)
  · simp [hc]
  · simpa using hplain c (hx c hc)

/-- A line of a plain mnemonic and the text of an operand is read by its mnemonic (R77). -/
theorem readLine_operand {m : List Char} (hm : ∀ c ∈ m, isPlain c = true) (hm0 : m ≠ []) (d : Block) :
    readLine (m ++ ' ' :: blockText d) =
      if m = textLoadkey then .command (.loadkey d)
      else if m = textEncrypt then .command (.encrypt d)
      else if m = textDecrypt then .command (.decrypt d)
      else .malformed := by
  rw [readLine, takeWhile_two hm (blockText_plain d), splitWords_two hm (blockText_plain d) hm0 nofun]
  simp only [readOperand_blockText]

/-! ## A command presented -/

/-- The command the host presents to an idle engine is accepted, with the inputs after it still to come (R79). -/
theorem atPoint_of_presented {s : State} {w : CommandWord} {rest : List PortInput} (hp : s.phase = .idle)
    (hin : s.inputs = PortInput.present w :: rest) (accept : Instr → State → StepResult) :
    atPoint accept s = accept (decode w) { s with inputs := rest, rsp := none } := by
  have hport : s.portInput = PortInput.present w := by rw [State.portInput, hin]; rfl
  rw [atPoint_of_accepted (by rw [hport]; rfl) hp (by rw [hport]; rfl), hport, State.nextPoint, hin]
  rfl

/-! ## The responses of a run -/

theorem responseCount_block (dir : Dir) (x : Block) : responseCount (Instr.block dir x) = 1 := by cases dir <;> rfl

/-- Each LOADKEY and block command adds one response, which is the one on the port, and NOP none (R80). -/
theorem exec_responses {i : Instr} {s t : State} (h : exec i s = .next t) :
    (responseCount i = 0 ∧ t.responses = s.responses) ∨
    (responseCount i = 1 ∧ ∃ a, t.rsp = some a ∧ t.responses = s.responses ++ [a]) := by
  obtain ⟨⟨d, rfl⟩, rfl⟩ | ⟨key, rfl, rfl⟩ | ⟨dir, x, rfl, ⟨-, rfl⟩ | ⟨-, ks, -, rfl⟩⟩ := exec_cases h
  · exact .inl ⟨rfl, rfl⟩
  · exact .inr ⟨rfl, _, rfl, rfl⟩
  · exact .inr ⟨responseCount_block dir x, _, rfl, rfl⟩
  · exact .inr ⟨responseCount_block dir x, _, rfl, rfl⟩

theorem exec_responses_length {i : Instr} {s t : State} (h : exec i s = .next t) :
    t.responses.length = s.responses.length + responseCount i := by
  obtain ⟨hcount, hresp⟩ | ⟨hcount, a, -, hresp⟩ := exec_responses h <;> simp [hcount, hresp]

/-! ## Obligations -/

/-- Settles O1: the fields of the word of a command are its opcode and its operand. -/
theorem decodeOfEncode : Obligations.DecodeOfEncode := fun i _ => decode_encode i

/-- Settles O2: every word is the word of some command, so `decode_encode` gives the other round trip. -/
theorem encodeOfDecode : Obligations.EncodeOfDecode :=
  fun w => ⟨Instr.wellFormed_eq_true _, encode_decode w⟩

/-- Settles O3: the row of the command the word encodes, and `decode_eq_iff` for each value of `op`. -/
theorem decodeFollowsOpcodeMap : Obligations.DecodeFollowsOpcodeMap := by
  intro w
  refine ⟨?_, fun h => decode_eq_iff.mpr ⟨h, rfl⟩, fun h => decode_eq_iff.mpr ⟨h, rfl⟩,
    fun h => decode_eq_iff.mpr ⟨h, rfl⟩, fun h => decode_eq_iff.mpr ⟨h, rfl⟩, fun h => ?_⟩
  · have hrow := encode_and_opMask (decode w)
    rwa [encode_decode] at hrow
  · have hop := opField_of_block h
    cases hdir : w.getLsbD 64 with
    | false => exact decode_eq_iff.mpr ⟨by rw [hop, hdir]; rfl, rfl⟩
    | true => exact decode_eq_iff.mpr ⟨by rw [hop, hdir]; rfl, rfl⟩

/-- Settles O4: both data fields stand at the low end of their word. -/
theorem dataFieldIsOperandWhole : Obligations.DataFieldIsOperandWhole := by
  refine ⟨fun w i hi => ?_, fun v w hw i hi => ?_⟩
  · rw [operandVector, operand_decode]
    exact bitAt_lowField w hi
  · obtain ⟨-, hdata⟩ := isWord_ok_iff.mp hw
    rw [← bitAt_lowField w hi, hdata, resultField]

/-- Settles O6: the word of a response is told by its two fields. -/
theorem responseWordFormat : Obligations.ResponseWordFormat := by
  refine ⟨fun _ _ => isWord_ok_iff, fun _ => isWord_keyNotLoaded_iff, fun a => ?_⟩
  cases a with
  | ok data => simp [Response.readData, Response.err]
  | keyNotLoaded => simp [Response.readData, Response.err]

/-- Settles O7: the line splits into its mnemonic and its operand, and both read back. -/
theorem readLineOfCommandText : Obligations.ReadLineOfCommandText := by
  intro i hi
  cases i with
  | nop d =>
    obtain rfl := hi d rfl
    decide
  | loadkey d => exact readLine_operand (m := textLoadkey) (List.all_eq_true.mp (by decide)) nofun d
  | encrypt d => exact readLine_operand (m := textEncrypt) (List.all_eq_true.mp (by decide)) nofun d
  | decrypt d => exact readLine_operand (m := textDecrypt) (List.all_eq_true.mp (by decide)) nofun d

/-- Settles O33: the response of `exec_responses` is the whole list. -/
theorem oneResponsePerCommand : Obligations.OneResponsePerCommand := by
  intro i s t h
  obtain ⟨hcount, hresp⟩ | ⟨hcount, a, hrsp, hresp⟩ := exec_responses h
  · exact ⟨[], by simp [hresp], hcount.symm, fun h1 => by omega⟩
  · exact ⟨[a], hresp, hcount.symm, fun _ => hrsp.symm⟩

/-- Settles O51, by induction on the commands: each is executed whole, keeps the invariant and leaves the engine idle. -/
theorem commandSequenceCompletes : Obligations.CommandSequenceCompletes := by
  intro commands
  induction commands with
  | nil =>
    intro s hs hp
    exact ⟨s.drive [], rfl, by simp [State.runEnded, State.cmdReady, hp], hs, rfl⟩
  | cons i is ih =>
    intro s hs hp
    have hready : (s.nextPoint.drive is).Inv := State.nextPoint_inv (s := s) hs
    obtain ⟨u, hu, hinv⟩ := exec_goesOn hready hp i
    obtain ⟨hidle, hrun⟩ := runCommands_cons hp hu
    obtain ⟨t, ht, hended, htinv, hlen⟩ := ih u hinv hidle
    have hulen : u.responses.length = s.responses.length + responseCount i :=
      exec_responses_length (s := s.nextPoint.drive is) hu
    refine ⟨t, hrun.trans ht, hended, htinv, ?_⟩
    rw [hlen, hulen, List.map_cons, List.sum_cons, Nat.add_assoc]

/-- Settles O5: the words are closed, so the decoder runs. -/
theorem writtenWordsDecode : Obligations.WrittenWordsDecode := by
  unfold Obligations.WrittenWordsDecode
  decide

/-- The known-answer vector as a value of the block transform (95_test_vectors.md section 1). -/
theorem crypt_knownAnswer :
    crypt .enc 0x0123456789ABCDEF#64 (keySchedule 0x133457799BBCDFF1#64) = 0x85E813540F0AB405#64 := by
  decide +kernel

/-- Settles O24: the ENCRYPT is answered under the schedule of the LOADKEY before it. -/
theorem knownAnswerVector : Obligations.KnownAnswerVector := by
  obtain ⟨t, ht, hresp, -⟩ := runCommands_loadkey_cons (s := State.reset) rfl 0x133457799BBCDFF1#64
    (is := [.encrypt 0x0123456789ABCDEF#64]) (by simp)
  refine ⟨t, ht, hresp.trans ?_⟩
  simp [responseUnder, crypt_knownAnswer, State.reset]

/-- Settles O37: a command presented to an idle engine is accepted, at either level. -/
theorem stepRunsPresentedCommand : Obligations.StepRunsPresentedCommand := by
  refine ⟨fun s w rest hp hin => ⟨atPoint_of_presented hp hin exec, atPoint_of_presented hp hin acceptCommand⟩,
    fun s w => ?_⟩
  have hword : BitVec.ofNat 66 (w.toNat % 2 ^ 66) = w := by
    rw [Nat.mod_eq_of_lt w.isLt, BitVec.ofNat_toNat, BitVec.setWidth_eq]
  have hin : (s.withFetchWord 66 w.toNat).inputs = PortInput.present w :: s.inputs := by
    rw [State.withFetchWord, hword]
  exact atPoint_of_presented rfl hin exec

/-- Settles O38: at either level a busy engine's point is its micro-step. -/
theorem busyEngineIgnoresCommand : Obligations.BusyEngineIgnoresCommand :=
  fun _ hb hr => ⟨atPoint_of_busy hr hb exec, atPoint_of_busy hr hb acceptCommand⟩

/-- Settles O39: at either level an idle engine with no command goes on to the next point. -/
theorem idleEngineStaysIdle : Obligations.IdleEngineStaysIdle :=
  fun _ hp hr hv => ⟨atPoint_of_quiet hr hp hv exec, atPoint_of_quiet hr hp hv acceptCommand⟩

end Sys2Proof.Machine

/-! SUPPORT. A rotation by the whole width gives a half back, so the rotations of the key schedule add up to none (R98,
R114); and each half of a round key is read from one half of the rotation state (R96).  Then the statements of the
family 40_tables. -/

namespace Sys2Proof.Machine

/-! ## The rotation state from round to round -/

theorem rotl28_full (v : KeyHalf) : rotl28 v 28 = v :=
  ext_bitAt fun j hj => by rw [bitAt_rotl28 _ _ hj, Nat.add_mod_right, Nat.mod_eq_of_lt hj]

/-- The sixteen amounts of the shift schedule add up to the width of a half (R98). -/
theorem cumulativeShift_last : cumulativeShift 15 = 28 := by decide

/-- After round `n` both halves stand rotated by `CUM[n]` from where `PC1` put them (R114). -/
theorem keyHalvesAfter_eq_rotl28 (key : Block) (n : Nat) :
    keyHalvesAfter key (n + 1) =
      { c := rotl28 (initialKeyHalves key).c (cumulativeShift n),
        d := rotl28 (initialKeyHalves key).d (cumulativeShift n) } := by
  induction n with
  | zero => rfl
  | succ n ih => rw [keyHalvesAfter_succ, ih, rotateHalves, rotl28_rotl28, rotl28_rotl28, cumulativeShift]

/-- The last round leaves the rotation state as it was before the first (R118(b)). -/
theorem keyHalvesAfter_sixteen (key : Block) : keyHalvesAfter key 16 = initialKeyHalves key := by
  rw [keyHalvesAfter_eq_rotl28 key 15, cumulativeShift_last, rotl28_full, rotl28_full]

/-! ## The two halves of a round key -/

/-- The first four rows of `PC2` point into `C` (R96). -/
theorem pc2_points_into_c : ∀ j, j < 24 → engineTables.pc2.getD j 0 - 1 < 28 := by decide

/-- The last four rows of `PC2` point into `D` (R96). -/
theorem pc2_points_into_d : ∀ j, j < 48 → 24 ≤ j → ¬ engineTables.pc2.getD j 0 - 1 < 28 := by decide

theorem bitAt_selectRoundKey_first (h : KeyHalves) {j : Nat} (hj : j < 24) :
    bitAt (selectRoundKey h) j = bitPos h.c (engineTables.pc2.getD j 0) := by
  rw [selectRoundKey, bitAt_permute _ _ (by omega), bitPos, bitAt_append, if_pos (pc2_points_into_c j hj), bitPos]

theorem bitAt_selectRoundKey_last (h : KeyHalves) {j : Nat} (hj : j < 48) (hlast : 24 ≤ j) :
    bitAt (selectRoundKey h) j = bitAt h.d (engineTables.pc2.getD j 0 - 1 - 28) := by
  rw [selectRoundKey, bitAt_permute _ _ hj, bitPos, bitAt_append, if_neg (pc2_points_into_d j hj hlast)]

/-! ## The statements of the family 40_tables -/

/-- Settles O9: each of the two tables, read where the other points, gives the identity. -/
theorem initialAndFinalPermutationsInvert : Obligations.InitialAndFinalPermutationsInvert :=
  fun v => ⟨permute_fp_permute_ip v, permute_ip_permute_fp v⟩

/-- Settles O11: rotations accumulate, and the accumulated amount after round 15 is a whole turn. -/
theorem rotationStateAccumulates : Obligations.RotationStateAccumulates :=
  fun key => ⟨fun n _ => keyHalvesAfter_eq_rotl28 key n, keyHalvesAfter_sixteen key⟩

/-- Settles O15: a bit of a round key is a bit of the one half its row of `PC2` points into. -/
theorem roundKeyHalvesDependOnOneHalf : Obligations.RoundKeyHalvesDependOnOneHalf := by
  refine fun h h' => ⟨fun hc j hj => ?_, fun hd j hlast hj => ?_⟩
  · rw [bitAt_selectRoundKey_first h hj, bitAt_selectRoundKey_first h' hj, hc]
  · rw [bitAt_selectRoundKey_last h hj hlast, bitAt_selectRoundKey_last h' hj hlast, hd]

/-- Settles O8: the check is a Boolean function of closed tables, so it runs. -/
theorem tablesPassIntegrityCheck : Obligations.TablesPassIntegrityCheck := by
  unfold Obligations.TablesPassIntegrityCheck
  decide

end Sys2Proof.Machine

/-! SUPPORT. What a round key is made of: the rotation of a half as an integer (R112), each bit of `K[i]` as a bit of the
key (R111, R113), complemented keys and keys with constant halves (R118), and what LOADKEY does at the command level
(R116).  Then the statements of the family 41_key_schedule. -/

namespace Sys2Proof.Machine

/-! ## The rotation of a half -/

/-- The rotation is the library's rotation to the left (R112). -/
theorem rotl28_eq_rotateLeft (v : KeyHalf) (s : Nat) : rotl28 v s = v.rotateLeft s :=
  ext_bitAt fun j hj => by
    rw [bitAt_rotl28 _ _ hj, bitAt, bitAt, BitVec.getMsbD_rotateLeft]
    simp [hj, Nat.add_comm]

/-- The bits that leave at the most-significant end re-enter at the other, whatever the amount (R112). -/
theorem toNat_rotl28 (v : KeyHalf) {s : Nat} (h : s < 28) :
    (rotl28 v s).toNat = ((v.toNat <<< s) ||| (v.toNat >>> (28 - s))) &&& 0xFFFFFFF := by
  have hmask : ∀ n : Nat, n &&& 0xFFFFFFF = n % 2 ^ 28 := fun n => Nat.and_two_pow_sub_one_eq_mod n 28
  have hlow : v.toNat >>> (28 - s) < 2 ^ 28 := (Nat.shiftRight_le _ _).trans_lt v.isLt
  rw [rotl28_eq_rotateLeft, BitVec.toNat_rotateLeft, Nat.mod_eq_of_lt h, hmask, Nat.or_mod_two_pow,
    Nat.mod_eq_of_lt hlow]

/-! ## The bits of a round key -/

/-- Index `i` of `C[0] ‖ D[0]` is the key bit that `PC1` puts there (R110). -/
theorem bitAt_initialKeyHalves (key : Block) {i : Nat} (h : i < 56) :
    bitAt ((initialKeyHalves key).c ++ (initialKeyHalves key).d) i = bitPos key (engineTables.pc1.getD i 0) := by
  have hjoin := firstBits_append_lastBits (m := 28) (n := 28) (permute 56 engineTables.pc1 key)
  exact (congrArg (bitAt · i) hjoin).trans (bitAt_permute _ _ h)

/-- Rotating both halves moves each bit inside its own half (R112). -/
theorem bitAt_rotl28_append (c d : KeyHalf) (s : Nat) {p : Nat} (h : p < 56) :
    bitAt (rotl28 c s ++ rotl28 d s) p = bitAt (c ++ d) (28 * (p / 28) + (p % 28 + s) % 28) := by
  rw [bitAt_append, bitAt_append]
  by_cases hp : p < 28
  · rw [if_pos hp, if_pos (by omega), bitAt_rotl28 _ _ hp]
    congr 1
    omega
  · rw [if_neg hp, if_neg (by omega), bitAt_rotl28 _ _ (by omega)]
    congr 1
    omega

/-! ## The parity positions -/

theorem bitAt_and {n : Nat} (a b : BitVec n) (i : Nat) : bitAt (a &&& b) i = (bitAt a i && bitAt b i) :=
  BitVec.getMsbD_and

theorem bitAt_zero (n i : Nat) : bitAt (0#n) i = false := BitVec.getMsbD_zero

/-- The parity-position bits: 1-based positions 8, 16, .. 64, which are the 0-based indices 7, 15, .. 63 (R111). -/
theorem bitAt_parityMask : ∀ i, i < 64 → i % 8 ≠ 7 → bitAt (~~~0x0101010101010101#64) i = true := by decide

/-- `PC1` points at no parity position (R111). -/
theorem pc1_avoids_parity : ∀ j, j < 56 → (engineTables.pc1.getD j 0 - 1) % 8 ≠ 7 := by decide

/-- A vector with nothing outside the parity positions has no bit anywhere else. -/
theorem bitAt_of_parity_only {m : Block} (hm : m &&& ~~~0x0101010101010101#64 = 0#64) {i : Nat} (hi : i < 64)
    (h : i % 8 ≠ 7) : bitAt m i = false := by
  calc bitAt m i = bitAt (m &&& ~~~0x0101010101010101#64) i := by rw [bitAt_and, bitAt_parityMask i hi h, Bool.and_true]
    _ = false := by rw [hm, bitAt_zero]

theorem initialKeyHalves_xor_parity (key : Block) {m : Block} (hm : m &&& ~~~0x0101010101010101#64 = 0#64) :
    initialKeyHalves (key ^^^ m) = initialKeyHalves key := by
  have hpc1 : permute 56 engineTables.pc1 (key ^^^ m) = permute 56 engineTables.pc1 key := ext_bitAt fun j hj => by
    rw [bitAt_permute _ _ hj, bitAt_permute _ _ hj, bitPos, bitPos, bitAt_xor,
      bitAt_of_parity_only hm (pc1_in_range j hj) (pc1_avoids_parity j hj), Bool.xor_false]
  rw [initialKeyHalves, hpc1, initialKeyHalves]

/-! ## LOADKEY -/

/-- LOADKEY at the command level, whole and in every state (R116). -/
theorem exec_loadkey (key : Block) (s : State) :
    exec (.loadkey key) s = .next (((((s.writeSchedule (keySchedule key)).markKeyLoaded).setKeyHalves
      (keyHalvesAfter key 16)).setRound 15#4).respond (.ok 0#64)) := rfl

/-- Both levels know a key by what `PC1` makes of it: `C` and `D` after the sixteenth round are again `C[0]` and `D[0]`. -/
theorem exec_loadkey_congr {key key' : Block} (h : initialKeyHalves key = initialKeyHalves key') (s : State) :
    exec (.loadkey key) s = exec (.loadkey key') s := by
  rw [exec_loadkey, exec_loadkey, keySchedule_congr h, keyHalvesAfter_sixteen, keyHalvesAfter_sixteen, h]

theorem acceptLoadkey_congr {key key' : Block} (h : initialKeyHalves key = initialKeyHalves key') (s : State) :
    acceptLoadkey key s = acceptLoadkey key' s := by
  rw [acceptLoadkey, acceptLoadkey, operandVector, operandVector, h]

/-! ## Complemented keys -/

theorem keyHalvesAfter_not (key : Block) (n : Nat) : keyHalvesAfter (~~~key) n = (keyHalvesAfter key n).compl := by
  induction n with
  | zero => exact initialKeyHalves_not key
  | succ n ih => rw [keyHalvesAfter_succ, keyHalvesAfter_succ, ih, rotateHalves_compl]

/-! ## Constant halves -/

/-- All bits of the half are equal (R118(e)). -/
def IsConstantHalf (v : KeyHalf) : Prop := v = 0#28 ∨ v = 0xFFFFFFF#28

theorem rotl28_zero (s : Nat) : rotl28 0#28 s = 0#28 :=
  ext_bitAt fun j hj => by rw [bitAt_rotl28 _ _ hj, bitAt_zero, bitAt_zero]

/-- No rotation changes a half whose bits are all equal. -/
theorem rotl28_of_isConstantHalf {v : KeyHalf} (h : IsConstantHalf v) (s : Nat) : rotl28 v s = v := by
  obtain rfl | rfl := h
  · exact rotl28_zero s
  · have hones : 0xFFFFFFF#28 = ~~~0#28 := rfl
    rw [hones, rotl28_not, rotl28_zero]

/-- With constant halves every round key is selected from `C[0]` and `D[0]` (R118(e)). -/
theorem scheduleKey_of_constantHalves {key : Block} {c d : KeyHalf} (h : initialKeyHalves key = ⟨c, d⟩)
    (hc : IsConstantHalf c) (hd : IsConstantHalf d) (i : RoundIndex) :
    scheduleKey (keySchedule key) i = selectRoundKey ⟨c, d⟩ := by
  rw [scheduleKey_keySchedule, roundKeyOf, keyHalvesAfter_eq_rotl28, h, rotl28_of_isConstantHalf hc,
    rotl28_of_isConstantHalf hd]

/-! What `PC1` makes of the four keys of that kind (R118(e)). -/

theorem initialKeyHalves_zeros_zeros : initialKeyHalves 0x0101010101010101#64 = ⟨0#28, 0#28⟩ := by decide +kernel
theorem initialKeyHalves_ones_ones : initialKeyHalves 0xFEFEFEFEFEFEFEFE#64 = ⟨0xFFFFFFF#28, 0xFFFFFFF#28⟩ := by
  decide +kernel
theorem initialKeyHalves_ones_zeros : initialKeyHalves 0xE0E0E0E0F1F1F1F1#64 = ⟨0xFFFFFFF#28, 0#28⟩ := by decide +kernel
theorem initialKeyHalves_zeros_ones : initialKeyHalves 0x1F1F1F1F0E0E0E0E#64 = ⟨0#28, 0xFFFFFFF#28⟩ := by decide +kernel

/-! ## The statements of the family 41_key_schedule -/

/-- Settles O10: both amounts are below the width of a half. -/
theorem rotationAsIntegers : Obligations.RotationAsIntegers := fun v _ _ => toNat_rotl28 v (by omega)

/-- Settles O12: from the round key back through `PC2`, the accumulated rotation and `PC1`. -/
theorem roundKeyBitIsOneKeyBit : Obligations.RoundKeyBitIsOneKeyBit := by
  intro key i j hj p
  have hp : p < 56 := pc2_in_range j hj
  have hmoved : 28 * (p / 28) + (p % 28 + cumulativeShift i.toNat) % 28 < 56 := by omega
  rw [scheduleKey_keySchedule, roundKeyOf, keyHalvesAfter_eq_rotl28, selectRoundKey, bitAt_permute _ _ hj, bitPos,
    bitAt_rotl28_append _ _ _ hp, bitAt_initialKeyHalves key hmoved]

/-- Settles O13: `PC1` makes the same of both keys. -/
theorem parityBitsDoNotMatter : Obligations.ParityBitsDoNotMatter := by
  intro key m hm
  have hhalves := initialKeyHalves_xor_parity key hm
  exact ⟨keySchedule_congr hhalves, fun s => ⟨exec_loadkey_congr hhalves s, acceptLoadkey_congr hhalves s⟩⟩

/-- Settles O14: every stage of the schedule commutes with complement. -/
theorem scheduleOfComplement : Obligations.ScheduleOfComplement := by
  intro key i
  rw [scheduleKey_keySchedule, scheduleKey_keySchedule, roundKeyOf, roundKeyOf, keyHalvesAfter_not, selectRoundKey_compl]

/-- Settles O16: with constant halves no round key depends on its round, so one evaluation a key gives all sixteen. -/
theorem constantHalvesGiveEqualRoundKeys : Obligations.ConstantHalvesGiveEqualRoundKeys := by
  refine ⟨fun key hc hd i j => ?_, fun i => ⟨?_, ?_, ?_, ?_⟩⟩
  · rw [scheduleKey_of_constantHalves rfl hc hd, scheduleKey_of_constantHalves rfl hc hd]
  · exact (scheduleKey_of_constantHalves initialKeyHalves_zeros_zeros (.inl rfl) (.inl rfl) i).trans (by decide +kernel)
  · exact (scheduleKey_of_constantHalves initialKeyHalves_ones_ones (.inr rfl) (.inr rfl) i).trans (by decide +kernel)
  · exact (scheduleKey_of_constantHalves initialKeyHalves_ones_zeros (.inr rfl) (.inl rfl) i).trans (by decide +kernel)
  · exact (scheduleKey_of_constantHalves initialKeyHalves_zeros_ones (.inl rfl) (.inr rfl) i).trans (by decide +kernel)

/-- Settles O43: a micro-step is the last or not, and sixteen of them end in the very state of the command level. -/
theorem loadkeyMicroSteps : Obligations.LoadkeyMicroSteps := by
  refine ⟨fun key s => rfl, fun s hp => ?_, fun key s u t hp hu ht => ?_⟩
  · intro c' d' rk'
    rw [microStep_of_keygen hp]
    by_cases hlast : s.rnd = 15#4
    · rw [keygenStep_of_last hlast, if_pos hlast]
      rfl
    · rw [keygenStep_of_ne hlast, if_neg hlast]
      rfl
  · obtain rfl : s.keygenAt key 0 = u := Host.Outcome.next.inj ((acceptLoadkey_eq key s).symm.trans hu)
    obtain ⟨hphase, -⟩ := commandFrames _ s t ht
    exact ⟨t, (runPoints_microStep_loadkey hp key).trans ht, hphase.trans hp, rfl, rfl, rfl, rfl⟩

/-- Settles O26: a word with `op = 01` is a LOADKEY of its data field, and `exec_loadkey` asks nothing of the state. -/
theorem loadkeyResult : Obligations.LoadkeyResult := by
  intro w s hop
  have hdec : decode w = .loadkey (dataField w) := decode_eq_iff.mpr ⟨hop, rfl⟩
  exact ⟨_, hdec ▸ exec_loadkey (dataField w) s, rfl, rfl, rfl, rfl⟩

end Sys2Proof.Machine

/-! SUPPORT. Bit for bit, what the stages of the round function do (R126 to R131); then the statements of the family
42_feistel_round. -/

namespace Sys2Proof.Machine

/-! ## The stages of the round function -/

/-- Row `g` of `E` lists the neighbours of group `g`, the wrap at its two ends included (R93). -/
theorem e_lists_neighbours :
    ∀ g, g < 8 → ∀ k, k < 6 → engineTables.e.getD (6 * g + k) 0 - 1 = (4 * g + k + 31) % 32 := by decide

theorem sboxRow_lt (b : BitVec 6) : sboxRow b < 4 := by
  have h0 := (bitAt b 0).toNat_lt
  have h5 := (bitAt b 5).toNat_lt
  rw [sboxRow]
  omega

theorem sboxColumn_lt (b : BitVec 6) : sboxColumn b < 16 := by
  have h1 := (bitAt b 1).toNat_lt
  have h2 := (bitAt b 2).toNat_lt
  have h3 := (bitAt b 3).toNat_lt
  have h4 := (bitAt b 4).toNat_lt
  rw [sboxColumn]
  omega

/-- Bit `k` of `bv_n(e)` is the one of weight `2^(n-1-k)` (R7). -/
theorem bitAt_ofNat (n e : Nat) {k : Nat} (h : k < n) : bitAt (BitVec.ofNat n e) k = e.testBit (n - 1 - k) := by
  rw [bitAt, BitVec.getMsbD, BitVec.getLsbD_ofNat, decide_eq_true h, decide_eq_true (by omega), Bool.true_and,
    Bool.true_and]

theorem bitAt_sboxNibble (x : BitVec 48) (g : Nat) {k : Nat} (h : k < 4) :
    bitAt (sboxNibble x g) k = (sboxEntry g (sboxRow (group6 x g)) (sboxColumn (group6 x g))).testBit (3 - k) :=
  bitAt_ofNat 4 _ h

/-- Nibble `g` of the substitution output is the one made from group `g` (R131). -/
theorem bitAt_substitute (x : BitVec 48) {g k : Nat} (hg : g < 8) (hk : k < 4) :
    bitAt (substitute x) (4 * g + k) = bitAt (sboxNibble x g) k := by
  have hgroup : (4 * g + k) / 4 = g := by omega
  have hplace : (4 * g + k) % 4 = k := by omega
  rw [substitute, bitAt_ofBits, hgroup, hplace, decide_eq_true (by omega), Bool.true_and]

/-! ## The statements of the family 42_feistel_round -/

/-- Settles O17: output index `6g + k` copies the position that row `g` of `E` lists. -/
theorem expansionGroupTakesNeighbours : Obligations.ExpansionGroupTakesNeighbours := by
  intro s g k hg hk
  rw [expand, bitAt_permute _ _ (by omega), bitPos, e_lists_neighbours g hg k hk]

/-- Settles O18: bit `4g + k` of the output is bit `k` of nibble `g`, which is the entry's bit of weight `2^(3-k)`. -/
theorem substitutionPlacesEntries : Obligations.SubstitutionPlacesEntries := fun x g _ hg hk =>
  ⟨sboxRow_lt _, sboxColumn_lt _, (bitAt_substitute x hg hk).trans (bitAt_sboxNibble x g hk)⟩

/-- Settles O19: `E` commutes with complement, and the mixing then cancels the two complements. -/
theorem roundFunctionOfComplements : Obligations.RoundFunctionOfComplements := by
  intro s k
  rw [roundFunction, expand_not, ← BitVec.not_xor_left, ← BitVec.not_xor_right, BitVec.not_not, roundFunction]

end Sys2Proof.Machine

/-! SUPPORT. What the block transform reads of a direction and a schedule is the sequence of round keys (R142, R153), the
transform of complements (R153), and what a block command does at either level (R145, R146, R150).  Then the statements of
the family 43_block_cipher. -/

namespace Sys2Proof.Machine

/-! ## The sequence of round keys -/

/-- Two directions over two schedules transform alike when they read the same round key in every round (R142). -/
theorem crypt_congr {dir dir' : Dir} {ks ks' : Schedule}
    (h : ∀ i, scheduleKey ks (keyIndex dir i) = scheduleKey ks' (keyIndex dir' i)) (x : Block) :
    crypt dir x ks = crypt dir' x ks' := by
  have hhalves : ∀ n, blockHalvesAfter dir x ks n = blockHalvesAfter dir' x ks' n := by
    intro n
    induction n with
    | zero => rfl
    | succ n ih => rw [blockHalvesAfter_succ, blockHalvesAfter_succ, ih, h]
  rw [crypt, crypt, hhalves]

theorem scheduleKey_reverse (ks : Schedule) (i : RoundIndex) :
    scheduleKey ks.reverse i = scheduleKey ks (15#4 - i) := by
  have hindex : 16 - 1 - i.toNat = (15#4 - i).toNat := by bv_omega
  simp [scheduleKey, hindex]

/-- `kidx(dir, i)` exclusive-ors the round with the direction bit repeated (R150). -/
theorem keyIndex_eq_xor (dir : Dir) (i : RoundIndex) : keyIndex dir i = i ^^^ (if dir.bit then 15#4 else 0#4) := by
  cases dir with
  | enc => exact BitVec.xor_zero.symm
  | dec =>
    revert i
    decide

/-! ## Complements -/

/-- A round commutes with complement of the halves and the key: `F` sees no difference, and `L` passes its own on. -/
theorem feistelRound_compl (h : BlockHalves) (k : RoundKey) :
    feistelRound h.compl (~~~k) = (feistelRound h k).compl := by
  have hright : ~~~h.l ^^^ roundFunction (~~~h.r) (~~~k) = ~~~(h.l ^^^ roundFunction h.r k) := by
    rw [roundFunctionOfComplements, BitVec.not_xor_left]
  exact congrArg (BlockHalves.mk (~~~h.r)) hright

theorem blockHalvesAfter_not (dir : Dir) (key x : Block) (n : Nat) :
    blockHalvesAfter dir (~~~x) (keySchedule (~~~key)) n = (blockHalvesAfter dir x (keySchedule key) n).compl := by
  induction n with
  | zero => exact initialBlockHalves_not x
  | succ n ih => rw [blockHalvesAfter_succ, blockHalvesAfter_succ, ih, scheduleOfComplement, feistelRound_compl]

/-! ## Block commands -/

/-- A block command in either direction: the error, whole, or the transformed block with the keys unchanged. -/
theorem exec_block_result (dir : Dir) (x : Block) (s : State) :
    (s.keyValid = false → exec (Instr.block dir x) s = .next (s.respond .keyNotLoaded)) ∧
    (∀ ks : Schedule, s.keyValid = true → s.rk = ks.map some →
      ∃ t, exec (Instr.block dir x) s = .next t ∧ t.rsp = some (.ok (crypt dir x ks)) ∧
        t.responses = s.responses ++ [.ok (crypt dir x ks)] ∧ t.rk = s.rk ∧ t.keyValid = s.keyValid) := by
  rw [exec_block]
  exact ⟨fun hv => blockOperation_of_no_key hv dir x,
    fun ks hv hw => ⟨_, blockOperation_of_written hv hw dir x, rfl, rfl, rfl, rfl⟩⟩

/-! ## The statements of the family 43_block_cipher -/

/-- Settles O20: each of the two is the other direction undone. -/
theorem cryptDirectionsInvert : Obligations.CryptDirectionsInvert :=
  fun ks x => ⟨crypt_crypt (dir := .enc) (dir' := .dec) nofun x ks, crypt_crypt (dir := .dec) (dir' := .enc) nofun x ks⟩

/-- Settles O21: decryption reads `RK[15 - i]` in round `i`, which is what stands at `i` in the reversed schedule. -/
theorem decryptIsEncryptReversed : Obligations.DecryptIsEncryptReversed :=
  fun ks x => crypt_congr (fun i => (scheduleKey_reverse ks i).symm) x

/-- Settles O22: the two directions read the same round keys, and one undoes the other. -/
theorem palindromicScheduleUndoesItself : Obligations.PalindromicScheduleUndoesItself := by
  intro ks x h
  have hagree : ∀ y, crypt .enc y ks = crypt .dec y ks := crypt_congr h
  exact ⟨hagree x, (hagree _).trans (crypt_crypt (dir := .enc) (dir' := .dec) nofun x ks)⟩

/-- Settles O23: every stage commutes with complement. -/
theorem complementedKeyAndBlock : Obligations.ComplementedKeyAndBlock := by
  intro dir key x
  rw [crypt, blockHalvesAfter_not, finalBlock_compl, crypt]

/-- Settles O27: a word with `op = 10` is an ENCRYPT of its data field. -/
theorem encryptResult : Obligations.EncryptResult := by
  intro w s hop
  have hdec : decode w = .encrypt (dataField w) := decode_eq_iff.mpr ⟨hop, rfl⟩
  rw [hdec]
  exact exec_block_result .enc (dataField w) s

/-- Settles O28: a word with `op = 11` is a DECRYPT of its data field. -/
theorem decryptResult : Obligations.DecryptResult := by
  intro w s hop
  have hdec : decode w = .decrypt (dataField w) := decode_eq_iff.mpr ⟨hop, rfl⟩
  rw [hdec]
  exact exec_block_result .dec (dataField w) s

/-- Settles O44: a micro-step is the last or not, and sixteen of them end in the very state of the command level. -/
theorem blockMicroSteps : Obligations.BlockMicroSteps := by
  refine ⟨fun dir x s hv => ?_, fun dir x s hv => ?_, fun s k hp hk => ?_, fun dir x s u t hp hv hu ht => ?_⟩
  · exact (acceptCommand_block dir x s).trans (requireKey_of_true hv _)
  · exact (acceptCommand_block dir x s).trans (requireKey_of_false hv _)
  · intro r'
    rw [← keyIndex_eq_xor] at hk
    rw [microStep_of_rounds hp]
    by_cases hlast : s.rnd = 15#4
    · rw [roundsStep_of_last hk hlast, if_pos hlast]
      rfl
    · rw [roundsStep_of_ne hk hlast, if_neg hlast]
      rfl
  · obtain ⟨hno, -⟩ | ⟨-, ks, hw, rfl⟩ := blockOperation_next ((exec_block dir x s).symm.trans ht)
    · simp [hv] at hno
    · have hacc := (acceptCommand_block dir x s).trans (acceptBlock_of_key hv dir x ks)
      obtain rfl : s.cryptAt dir x ks 0 = u := Host.Outcome.next.inj (hacc.symm.trans hu)
      exact ⟨_, (runPoints_microStep_block hw dir x hp hv).trans ht, hp, rfl, rfl, rfl, rfl⟩

/-- Settles O25: a word with `op = 00` is a NOP, and both levels answer a NOP with the state as it stands. -/
theorem nopHasNoEffect : Obligations.NopHasNoEffect := by
  intro w s hop
  have hdec : decode w = .nop (dataField w) := decode_eq_iff.mpr ⟨hop, rfl⟩
  rw [hdec]
  exact ⟨rfl, rfl⟩

end Sys2Proof.Machine

/-! SUPPORT. Packing and unpacking bit by bit (R166, R167); the groups of a file, which are the 8-byte groups of the file
completed with its fill bytes (R168 to R170); and what the adapter's use of an idle engine comes to, one cipher group for
each group (R168, R172).  Then the statements of the family 44_host_adapter. -/

namespace Sys2Proof.Machine

/-! ## Bytes and blocks -/

theorem bitAt_packBytes (g : List Byte) (i : Nat) {j : Nat} (hi : i < 8) (hj : j < 8) :
    bitAt (packBytes g) (8 * i + j) = (g.getD i 0#8).getLsbD j := by
  have hbyte : (8 * i + j) / 8 = i := by omega
  have hbit : (8 * i + j) % 8 = j := by omega
  rw [packBytes, bitAt_ofBits, hbyte, hbit, decide_eq_true (by omega), Bool.true_and]

@[simp] theorem length_unpackBlock (x : Block) : (unpackBlock x).length = 8 := by simp [unpackBlock]

theorem getLsbD_unpackBlock (x : Block) {i j : Nat} (hi : i < 8) (hj : j < 8) :
    ((unpackBlock x).getD i 0#8).getLsbD j = bitAt x (8 * i + j) := by
  have hbyte : (unpackBlock x).getD i 0#8 = ofBits 8 fun m => bitAt x (8 * i + (7 - m)) := by simp [unpackBlock, hi]
  have hplace : 7 - (8 - 1 - j) = j := by omega
  rw [hbyte, BitVec.getLsbD_eq_getMsbD, decide_eq_true hj, Bool.true_and, ← bitAt, bitAt_ofBits,
    decide_eq_true (by omega), Bool.true_and, hplace]

theorem unpackBlock_packBytes {g : List Byte} (h : g.length = 8) : unpackBlock (packBytes g) = g := by
  refine List.ext_getElem (by simp [h]) fun i hi hig => ?_
  have hi8 : i < 8 := h ▸ hig
  rw [← List.getD_eq_getElem _ 0#8, ← List.getD_eq_getElem g 0#8]
  exact BitVec.eq_of_getLsbD_eq fun j hj => by rw [getLsbD_unpackBlock _ hi8 hj, bitAt_packBytes g i hi8 hj]

theorem packBytes_unpackBlock (x : Block) : packBytes (unpackBlock x) = x :=
  ext_bitAt fun n hn => by
    rw [← Nat.div_add_mod n 8, bitAt_packBytes _ _ (by omega) (by omega), getLsbD_unpackBlock _ (by omega) (by omega)]

/-! ## Splitting into groups -/

theorem splitGroups_append {n : Nat} {a : List Byte} (ha : a.length = 8 * n) (m : Nat) (b : List Byte) :
    splitGroups (n + m) (a ++ b) = splitGroups n a ++ splitGroups m b := by
  induction n generalizing a with
  | zero =>
    obtain rfl := List.length_eq_zero_iff.mp ha
    simp [splitGroups]
  | succ n ih =>
    have hrest : (a.drop 8).length = 8 * n := by simp [ha]; omega
    rw [Nat.add_right_comm, splitGroups, splitGroups, List.take_append_of_le_length (by omega),
      List.drop_append_of_le_length (by omega), ih hrest, List.cons_append]

theorem flatten_splitGroups {n : Nat} {bytes : List Byte} (h : bytes.length = 8 * n) :
    (splitGroups n bytes).flatten = bytes := by
  induction n generalizing bytes with
  | zero => exact (List.length_eq_zero_iff.mp h).symm
  | succ n ih =>
    rw [splitGroups, List.flatten_cons, ih (by simp [h]; omega), List.take_append_drop]

theorem length_of_mem_splitGroups {n : Nat} {bytes : List Byte} (h : bytes.length = 8 * n) :
    ∀ g ∈ splitGroups n bytes, g.length = 8 := by
  induction n generalizing bytes with
  | zero => exact nofun
  | succ n ih => exact List.forall_mem_cons.mpr ⟨by simp [h], ih (by simp [h]; omega)⟩

@[simp] theorem length_splitGroups (n : Nat) (bytes : List Byte) : (splitGroups n bytes).length = n := by
  induction n generalizing bytes with
  | zero => rfl
  | succ n ih => simp [splitGroups, ih]

theorem length_flatten_of_groups {gs : List (List Byte)} (h : ∀ g ∈ gs, g.length = 8) :
    gs.flatten.length = 8 * gs.length := by
  rw [List.length_flatten, List.sum_eq_card_nsmul _ 8 (List.forall_mem_map.mpr h), List.length_map, smul_eq_mul, mul_comm]

/-- Joined groups of 8 bytes split into those groups again. -/
theorem splitGroups_flatten {gs : List (List Byte)} (h : ∀ g ∈ gs, g.length = 8) :
    splitGroups gs.length gs.flatten = gs := by
  induction gs with
  | nil => rfl
  | cons g gs ih =>
    obtain ⟨hg, hgs⟩ := List.forall_mem_cons.mp h
    rw [List.length_cons, splitGroups, List.flatten_cons, List.take_left' hg, List.drop_left' hg, ih hgs]

/-! ## The groups of a file -/

/-- The bytes that complete the last group of a file (R169); none for an exact multiple of 8 (R170). -/
def fileFill (bytes : List Byte) : List Byte :=
  List.replicate ((8 - bytes.length % 8) % 8) (BitVec.ofNat 8 (8 - bytes.length % 8))

theorem fileFill_congr {a b : List Byte} (h : a.length % 8 = b.length % 8) : fileFill a = fileFill b := by
  rw [fileFill, fileFill, h]

theorem fileFill_of_whole {bytes : List Byte} (h : bytes.length % 8 = 0) : fileFill bytes = [] := by
  rw [fileFill, h]
  rfl

theorem length_append_fileFill (bytes : List Byte) : (bytes ++ fileFill bytes).length = 8 * groupCount bytes := by
  simp only [fileFill, groupCount, List.length_append, List.length_replicate]
  omega

theorem fillGroup_of_full {g : List Byte} (h : g.length = 8) : fillGroup g = g := by simp [fillGroup, h]

theorem fillGroup_of_short {g : List Byte} (h0 : 0 < g.length) (h8 : g.length < 8) : fillGroup g = g ++ fileFill g := by
  have hmod : g.length % 8 = g.length := Nat.mod_eq_of_lt h8
  have hfill : (8 - g.length) % 8 = 8 - g.length := by omega
  rw [fillGroup, fileFill, hmod, hfill]

/-- Filling the groups of a file is splitting the filled file: a full group takes no fill, and a short one is the last. -/
theorem fileGroups_eq (bytes : List Byte) :
    fileGroups bytes = splitGroups (groupCount bytes) (bytes ++ fileFill bytes) := by
  rw [fileGroups]
  generalize hn : groupCount bytes = n
  rw [groupCount] at hn
  induction n generalizing bytes with
  | zero => rfl
  | succ n ih =>
    rw [splitGroups, splitGroups, List.map_cons]
    by_cases hfull : 8 ≤ bytes.length
    · have hmod : (bytes.drop 8).length % 8 = bytes.length % 8 := by rw [List.length_drop]; omega
      rw [fillGroup_of_full (List.length_take_of_le hfull), ih _ (by rw [List.length_drop]; omega), fileFill_congr hmod,
        List.take_append_of_le_length hfull, List.drop_append_of_le_length hfull]
    · obtain rfl : n = 0 := by omega
      have hlen : (bytes ++ fileFill bytes).length = 8 := by rw [length_append_fileFill, groupCount]; omega
      rw [List.take_of_length_le (by omega), List.take_of_length_le (by omega),
        fillGroup_of_short (by omega) (by omega)]
      rfl

theorem flatten_fileGroups (bytes : List Byte) : (fileGroups bytes).flatten = bytes ++ fileFill bytes := by
  rw [fileGroups_eq, flatten_splitGroups (length_append_fileFill bytes)]

theorem length_of_mem_fileGroups (bytes : List Byte) : ∀ g ∈ fileGroups bytes, g.length = 8 := by
  rw [fileGroups_eq]
  exact length_of_mem_splitGroups (length_append_fileFill bytes)

theorem length_fileGroups (bytes : List Byte) : (fileGroups bytes).length = groupCount bytes := by simp [fileGroups]

/-- Whole groups in front of a file are the first of its groups, and change none of the others. -/
theorem fileGroups_append {a : List Byte} (ha : a.length % 8 = 0) (b : List Byte) :
    fileGroups (a ++ b) = fileGroups a ++ fileGroups b := by
  have hlen : a.length = 8 * groupCount a := by rw [groupCount]; omega
  have hcount : groupCount (a ++ b) = groupCount a + groupCount b := by
    simp only [groupCount, List.length_append]
    omega
  have hfill : fileFill (a ++ b) = fileFill b := fileFill_congr (by rw [List.length_append]; omega)
  rw [fileGroups_eq, fileGroups_eq a, fileGroups_eq b, hcount, hfill, fileFill_of_whole ha, List.append_nil,
    List.append_assoc, splitGroups_append hlen]

/-! ## The adapter and the engine -/

/-- The output group that belongs to an input group (R168): no other group enters into it. -/
def cipherGroup (dir : Dir) (key : Block) (g : List Byte) : List Byte :=
  unpackBlock (crypt dir (packBytes g) (keySchedule key))

theorem length_of_mem_map_cipherGroup (dir : Dir) (key : Block) (gs : List (List Byte)) :
    ∀ g ∈ gs.map (cipherGroup dir key), g.length = 8 := by
  simp [cipherGroup]

/-- The other direction gives the group back (R148, R167). -/
theorem cipherGroup_cipherGroup {dir dir' : Dir} (h : dir ≠ dir') (key : Block) {g : List Byte} (hg : g.length = 8) :
    cipherGroup dir' key (cipherGroup dir key g) = g := by
  rw [cipherGroup, cipherGroup, packBytes_unpackBlock, crypt_crypt h, unpackBlock_packBytes hg]

theorem map_cipherGroup_map_cipherGroup {dir dir' : Dir} (h : dir ≠ dir') (key : Block) {gs : List (List Byte)}
    (hgs : ∀ g ∈ gs, g.length = 8) : (gs.map (cipherGroup dir key)).map (cipherGroup dir' key) = gs := by
  rw [List.map_map]
  exact (List.map_congr_left fun g hg => cipherGroup_cipherGroup h key (hgs g hg)).trans (List.map_id gs)

/-- The bytes of responses that all carry data are the data, unpacked and joined (R172). -/
theorem collectBytes_map_ok (xs : List Block) : collectBytes (xs.map .ok) = .ok (xs.map unpackBlock).flatten := by
  induction xs with
  | nil => rfl
  | cons x xs ih => simp [collectBytes, Response.readData, ih]

/-- What an idle engine makes of the groups, in whatever state: the LOADKEY puts the key into force, each block command is
answered under it, and the output groups are joined. -/
theorem transformGroups_of_idle {s : State} (hp : s.phase = .idle) (dir : Dir) (key : Block) (gs : List (List Byte)) :
    transformGroups dir key gs s = .ok (gs.map (cipherGroup dir key)).flatten := by
  obtain ⟨t, ht, hresp, -⟩ := runCommands_loadkey_cons hp key
    (is := gs.map fun g => Instr.block dir (packBytes g)) (by simp [block_ne_loadkey])
  have hdata : t.responses.drop (s.responses.length + 1) =
      (gs.map fun g => crypt dir (packBytes g) (keySchedule key)).map .ok := by
    simp [hresp, List.filterMap_map, Function.comp_def]
  have hrun : transformGroups dir key gs s = collectBytes (t.responses.drop (s.responses.length + 1)) := by
    rw [runCommands] at ht
    rw [transformGroups, fileCommands, ht]
  rw [hrun, hdata, collectBytes_map_ok, List.map_map]
  rfl

theorem encryptFile_of_idle {s : State} (hp : s.phase = .idle) (key : Block) (bytes : List Byte) :
    encryptFile key bytes s = .ok ((fileGroups bytes).map (cipherGroup .enc key)).flatten :=
  transformGroups_of_idle hp .enc key (fileGroups bytes)

theorem decryptFile_flatten {s : State} (hp : s.phase = .idle) (key : Block) {gs : List (List Byte)}
    (h : ∀ g ∈ gs, g.length = 8) : decryptFile key gs.flatten s = .ok (gs.map (cipherGroup .dec key)).flatten := by
  have hlen := length_flatten_of_groups h
  have hcount : groupCount gs.flatten = gs.length := by rw [groupCount]; omega
  rw [decryptFile, if_pos (by omega), hcount, splitGroups_flatten h, transformGroups_of_idle hp]

/-! ## The statements of the family 44_host_adapter -/

/-- Settles O55: unpacking reads bit `j` of byte `i` where packing puts it. -/
theorem unpackInvertsPack : Obligations.UnpackInvertsPack :=
  ⟨fun g i _ _ hi hj => bitAt_packBytes g i hi hj, fun _ => unpackBlock_packBytes, packBytes_unpackBlock⟩

/-- Settles O56: the groups of a file are the split of the filled file. -/
theorem fileGroupsFillTheLast : Obligations.FileGroupsFillTheLast := by
  refine fun bytes => ⟨flatten_fileGroups bytes, length_of_mem_fileGroups bytes, fun hwhole => ?_⟩
  rw [flatten_fileGroups, fileFill_of_whole hwhole, List.append_nil]

/-- Settles O57: the ciphertext splits into the cipher groups again, and decryption gives back each group of the filled
file. -/
theorem fileRoundTrip : Obligations.FileRoundTrip := by
  intro key bytes s s' hp hp'
  have hcipher := length_of_mem_map_cipherGroup .enc key (fileGroups bytes)
  have hback : decryptFile key ((fileGroups bytes).map (cipherGroup .enc key)).flatten s' =
      .ok (bytes ++ fileFill bytes) := by
    rw [decryptFile_flatten hp' key hcipher, map_cipherGroup_map_cipherGroup (dir := .enc) (dir' := .dec) nofun key
      (length_of_mem_fileGroups bytes), flatten_fileGroups]
  refine ⟨_, encryptFile_of_idle hp key bytes, ?_, hback, fun hwhole => ?_⟩
  · rw [length_flatten_of_groups hcipher, List.length_map, length_fileGroups, groupCount]
  · rw [hback, fileFill_of_whole hwhole, List.append_nil]

/-- Settles O58: the groups of the joined file are those of the one and then those of the other, and a cipher group depends
on its own group only. -/
theorem fileGroupsAreIndependent : Obligations.FileGroupsAreIndependent := by
  intro key a b ca cb s hp ha hca hcb
  rw [encryptFile_of_idle hp] at hca hcb ⊢
  obtain rfl := Except.ok.inj hca
  obtain rfl := Except.ok.inj hcb
  rw [fileGroups_append ha, List.map_append, List.flatten_append]

end Sys2Proof.Machine

/-! SUPPORT. What raising `KeyNotLoaded` comes to: at either level the response and no other change (R182, R186), and in a
run an engine that is idle without a key as before, ready for the next command (R187, R188).  Then the statements of the
family 60_exceptions. -/

namespace Sys2Proof.Machine

/-! ## The error at the acceptance of a block command -/

/-- At the round level too a block command without a key is answered at once, with no round begun (R185, R186). -/
theorem acceptCommand_block_of_no_key {s : State} (hv : s.keyValid = false) (dir : Dir) (x : Block) :
    acceptCommand (Instr.block dir x) s = .next (s.respond .keyNotLoaded) :=
  (acceptCommand_block dir x s).trans (requireKey_of_false hv _)

theorem exec_block_of_no_key {s : State} (hv : s.keyValid = false) (dir : Dir) (x : Block) :
    exec (Instr.block dir x) s = .next (s.respond .keyNotLoaded) :=
  (exec_block_result dir x s).left hv

/-- The error response joins the stream for a block command without a key and in no other case (R182). -/
theorem exec_responses_eq_keyNotLoaded_iff {i : Instr} {s t : State} (h : exec i s = .next t) :
    t.responses = s.responses ++ [.keyNotLoaded] ↔ (∃ dir x, i = Instr.block dir x) ∧ s.keyValid = false := by
  obtain ⟨⟨d, rfl⟩, rfl⟩ | ⟨key, rfl, rfl⟩ | ⟨dir, x, rfl, ⟨hv, rfl⟩ | ⟨hv, ks, -, rfl⟩⟩ := exec_cases h
  · have hno : ¬ ∃ dir x, Instr.nop d = Instr.block dir x := fun ⟨dir, x, he⟩ => block_ne_nop dir x d he.symm
    simp [hno]
  · have hno : ¬ ∃ dir x, Instr.loadkey key = Instr.block dir x :=
      fun ⟨dir, x, he⟩ => block_ne_loadkey dir x key he.symm
    simp [hno]
  · exact iff_of_true rfl ⟨⟨dir, x, rfl⟩, hv⟩
  · simp [hv]

/-! ## The error in a run -/

/-- A block command at the head of a run without a key is answered with the error, and the run goes on from an engine that
is idle and has no key as before (R186, R187). -/
theorem runCommands_block_of_no_key {s : State} (hp : s.phase = .idle) (hv : s.keyValid = false) (dir : Dir) (x : Block)
    (is : List Instr) :
    ∃ t, runCommands (Instr.block dir x :: is) s = runCommands is t ∧ t.phase = .idle ∧ t.keyValid = false ∧
      t.responses = s.responses ++ [.keyNotLoaded] := by
  have hexec := exec_block_of_no_key (s := s.nextPoint.drive is) hv dir x
  obtain ⟨hidle, hrun⟩ := runCommands_cons hp hexec
  exact ⟨_, hrun, hidle, hv, rfl⟩

/-! ## The statements of the family 60_exceptions -/

/-- Settles O31: in no case but the error's is the error response the one added. -/
theorem keyNotLoadedExactlyWithoutKey : Obligations.KeyNotLoadedExactlyWithoutKey := by
  refine fun i s t h => ⟨exec_responses_eq_keyNotLoaded_iff h, ?_⟩
  rintro dir x rfl hv
  exact Host.Outcome.next.inj (h.symm.trans (exec_block_of_no_key hv dir x))

/-- Settles O32: a word with `cmd[65] = 1` is a block command, and both levels accept it with the error. -/
theorem keyNotLoadedChangesNothing : Obligations.KeyNotLoadedChangesNothing := by
  refine ⟨fun s w rest hp hv hin hw => ?_, rfl⟩
  obtain ⟨-, -, -, -, -, hblock⟩ := decodeFollowsOpcodeMap w
  have hdec := hblock hw
  refine ⟨?_, ?_, by simp [State.cmdReady, hp]⟩
  · rw [step, atPoint_of_presented hp hin, hdec]
    exact exec_block_of_no_key (s := s.setPorts rest none) hv _ _
  · rw [roundStep, atPoint_of_presented hp hin, hdec]
    exact acceptCommand_block_of_no_key (s := s.setPorts rest none) hv _ _

/-- Settles O52: the error leaves an idle engine without a key, from which a LOADKEY governs what follows it, and from which
a block command raises the error again. -/
theorem errorIsNotSticky : Obligations.ErrorIsNotSticky := by
  intro s dir dir' x y key hp hv
  constructor
  · obtain ⟨u, hrun, hidle, -, huresp⟩ := runCommands_block_of_no_key hp hv dir x [.loadkey key, Instr.block dir' y]
    obtain ⟨t, ht, htresp, -⟩ :=
      runCommands_loadkey_cons (is := [Instr.block dir' y]) hidle key (by simp [block_ne_loadkey])
    exact ⟨t, hrun.trans ht, by simp [htresp, huresp]⟩
  · obtain ⟨u, hrun, hidle, hukv, huresp⟩ := runCommands_block_of_no_key hp hv dir x [Instr.block dir' y]
    obtain ⟨t, ht, -, -, htresp⟩ := runCommands_block_of_no_key hidle hukv dir' y []
    exact ⟨t.drive [], hrun.trans ht, by simp [htresp, huresp]⟩

end Sys2Proof.Machine

/-! SUPPORT. What reset leaves, as the round keys and the output ports show it (R31, R200).  Then the statements of the
family 70_reset_and_hazards. -/

namespace Sys2Proof.Machine

/-! ## The engine after a reset -/

/-- A round-key file that nothing has written has no value at any index (R36). -/
theorem State.rkAt_of_unwritten {s : State} (h : s.rk = Vector.replicate 16 none) (i : RoundIndex) : s.rkAt i = none := by
  simp [State.rkAt, h]

/-- The status outputs of an idle engine with no key and no response pending (R31). -/
theorem State.statusPorts_of_idle {s : State} (hp : s.phase = .idle) (ho : s.rsp = none) (hv : s.keyValid = false) :
    s.cmdReady = true ∧ s.rspValid = false ∧ s.keyValidOut = false := by
  simp [State.cmdReady, State.rspValid, State.keyValidOut, hp, ho, hv]

/-! ## The statements of the family 70_reset_and_hazards -/

/-- Settles O40: with `rst` both levels take the reset event, whatever the phase and whatever command is presented, and it
adds no response. -/
theorem resetEventWins : Obligations.ResetEventWins := by
  intro s hr
  obtain ⟨hready, hrsp, hkey⟩ := State.statusPorts_of_idle (s := s.nextPoint.resetEvent) rfl rfl rfl
  exact ⟨s.nextPoint.resetEvent, atPoint_of_rst hr exec, atPoint_of_rst hr acceptCommand,
    rfl, rfl, rfl, rfl, hready, hrsp, hkey, rfl, rfl⟩

/-- Settles O41: no round key of `State.reset` is written, and its outputs are those of an idle engine without a key. -/
theorem resetStateAsSpecified : Obligations.ResetStateAsSpecified :=
  ⟨rfl, rfl, rfl, State.rkAt_of_unwritten rfl, State.statusPorts_of_idle rfl rfl rfl⟩

end Sys2Proof.Machine

/-! SUPPORT. A block command over a written file at the command level, whole (R145, R146); then the statement of the family
'other'. -/

namespace Sys2Proof.Machine

/-- With a key loaded, a block command of either direction ends as its sixteen rounds do (R145, R146). -/
theorem exec_block_of_written {s : State} {ks : Schedule} (hv : s.keyValid = true) (hw : s.rk = ks.map some) (dir : Dir)
    (x : Block) :
    exec (Instr.block dir x) s = .next ((((s.setBlockHalves (blockHalvesAfter dir x ks 16)).setRound 15#4).setDir dir).respond
      (.ok (crypt dir x ks))) :=
  (exec_block dir x s).trans (blockOperation_of_written hv hw dir x)

/-- Settles O29: the updates of the two completions, carried out, are the states written out here. -/
theorem workingRegistersAfterCommands : Obligations.WorkingRegistersAfterCommands :=
  ⟨exec_loadkey, fun dir x _ _ hv hw => exec_block_of_written hv hw dir x⟩

end Sys2Proof.Machine
